-- ==== Sys2Proof/Config.lean ====
section
/-! DEFINITION. What an implementation fixes: the timing and width parameters (rules R6, R7) and the named parameters
of the Command API's pseudo-operations (R87). No parameter is fixed here for the model: State holds the set a run
uses (log 1). There is no free value, since the spec leaves no result open. -/

namespace Sys2Proof

/-- The parameter set of rule R6; times in µs, widths in bits. -/
structure Params where
  /-- `TE`, the half-bit period. -/
  te : Nat
  /-- `MIN_TE`, exclusive lower bound of a SHORT interval. -/
  minTe : Nat
  /-- `MAX_TE`, exclusive upper bound of a SHORT interval. -/
  maxTe : Nat
  /-- `MIN_2TE`, exclusive lower bound of a LONG interval. -/
  min2Te : Nat
  /-- `MAX_2TE`, exclusive upper bound of a LONG interval. -/
  max2Te : Nat
  /-- `STOP_HB`, the stop detector's duration in half-bit periods. -/
  stopHb : Nat
  /-- `WD_HB`, the reply watchdog in half-bit periods. -/
  wdHb : Nat
  /-- `TIMER_W`, the width of the counter, of the capture value and of the two intervals. -/
  timerW : Nat
  /-- `BF_W`, the width of the backward-frame accumulator. -/
  bfW : Nat
  deriving DecidableEq, Repr

/-- The defaults of rule R6 (log 2). -/
def Params.defaults : Params :=
  { te := 417, minTe := 333, maxTe := 500, min2Te := 666, max2Te := 1000, stopHb := 4, wdHb := 22, timerW := 32,
    bfW := 32 }

/-- `STOP_T = STOP_HB * TE` (R6). -/
def Params.stopT (p : Params) : Nat := p.stopHb * p.te

/-- `WD_T = WD_HB * TE` (R6). -/
def Params.wdT (p : Params) : Nat := p.wdHb * p.te

/-- The clauses of rule R7. -/
abbrev Params.WellFormed (p : Params) : Prop :=
  1 ≤ p.te ∧ p.minTe < p.maxTe ∧ p.maxTe ≤ p.min2Te ∧ p.min2Te < p.max2Te ∧ p.max2Te < p.stopT ∧
    p.stopT < p.wdT ∧ p.wdT < 2 ^ p.timerW ∧ 17 ≤ p.bfW

/-- The named parameters of the pseudo-operations (R87, log 20). -/
structure CommandParams where
  /-- `SEL_BCAST`. -/
  selBcast : BitVec 8
  /-- `OPC_ON`. -/
  opcOn : BitVec 8
  /-- `OPC_OFF`. -/
  opcOff : BitVec 8
  /-- `OPC_QDT`. -/
  opcQdt : BitVec 8
  /-- `SEL_QSA`. -/
  selQsa : BitVec 8
  deriving DecidableEq, Repr

/-- The defaults of rule R87. -/
def CommandParams.defaults : CommandParams :=
  { selBcast := 0xFF, opcOn := 0x05, opcOff := 0x00, opcQdt := 0x99, selQsa := 0xBB }

end Sys2Proof
end

