-- ==== Sys2Proof/Word.lean ====
section
/-! DEFINITION. The plainest arithmetic on words: the level of a line, one bit of a frame, the half-bit arithmetic
of rules R8 and R72, the encodings of STATE (R21). -/

namespace Sys2Proof

/-- A level of the RX or TX line; `true` is level 1, the idle level (R24). -/
abbrev Level := Bool

/-- `ceil(i/2)` for a natural number, as rule R8 writes it: `(i + 1) >> 1`. -/
def ceilHalf (i : Nat) : Nat := (i + 1) / 2

/-- `FWD[16 - ceil(i/2)]`, the data bit that slots `i = 1..32` carry (R72). -/
def frameBit (frame : BitVec 16) (i : Nat) : Bool := frame.getLsbD (16 - ceilHalf i)

/-- `STATE = IDLE` (R21). -/
abbrev stIdle : BitVec 2 := 0

/-- `STATE = SENDING` (R21). -/
abbrev stSending : BitVec 2 := 1

/-- `STATE = RECEIVING` (R21). -/
abbrev stReceiving : BitVec 2 := 2

end Sys2Proof
end

