-- ==== Sys2Proof/Syntax.lean ====
section
/-! DEFINITION. The operations of the core as syntax: one constructor per row of spec/opcode_table.json (rule R83),
the interval classes (R76) and the four selector words (R88). -/

namespace Sys2Proof

/-- The class of a measured interval (R76, R120). -/
inductive IntervalClass where
  | invalid
  | short
  | long
  deriving DecidableEq, Repr

/-- One row of the operation map (R83). An operation carries the operands its selector word gives it:
the CMD operand, the half-bit index of a slot class with several indices, the table's named fields. -/
inductive Instr where
  /-- START, accepted (R180). -/
  | start (frame : BitVec 16)
  /-- START while busy (R181); the operand is ignored. -/
  | startRej (frame : BitVec 16)
  /-- READ_STATUS (R182); the operand is ignored. -/
  | readStatus (operand : BitVec 16)
  /-- RESET (R230); the operand is ignored. -/
  | reset (operand : BitVec 16)
  /-- ENC_START2 (R101). -/
  | encStart2
  /-- ENC_DATA1 (R102), at the odd index `i`. -/
  | encData1 (i : BitVec 6)
  /-- ENC_DATA2 (R103), at the even index `i`. -/
  | encData2 (i : BitVec 6)
  /-- ENC_STOP (R104). -/
  | encStop
  /-- ENC_SETTLE (R105), at the index `i`. -/
  | encSettle (i : BitVec 6)
  /-- ENC_TURN (R106). -/
  | encTurn
  /-- ENC_END (R107, R154). -/
  | encEnd
  /-- HB_IDLE (R155). -/
  | hbIdle
  /-- EOF_DETECT (R145, R156). -/
  | eofDetect
  /-- STOP_IGNORE (R156). -/
  | stopIgnore
  /-- CAP_FALL (R159). -/
  | capFall
  /-- CAP_SEED (R160, R144). -/
  | capSeed
  /-- CAP_DECODE (R161, R130). -/
  | capDecode
  /-- CAP_ORDER (R158). -/
  | capOrder
  /-- CAP_IGNORE (R157). -/
  | capIgnore
  /-- DEC_BAD_HIGH (R133); `prev` and `low` are the row's free fields. -/
  | decBadHigh (prev : Bool) (low : IntervalClass)
  /-- DEC_BAD_LOW (R134); `prev` and `high` are the row's free fields. -/
  | decBadLow (prev : Bool) (high : IntervalClass)
  /-- DEC_0SS (R136). The names of the eight rows give (previous, low, high). -/
  | dec0SS
  /-- DEC_0SL (R137). -/
  | dec0SL
  /-- DEC_0LS (R138). -/
  | dec0LS
  /-- DEC_0LL (R139). -/
  | dec0LL
  /-- DEC_1SS (R140). -/
  | dec1SS
  /-- DEC_1SL (R141). -/
  | dec1SL
  /-- DEC_1LS (R142). -/
  | dec1LS
  /-- DEC_1LL (R143). -/
  | dec1LL
  /-- CLASSIFY (R120), of the interval `t`. -/
  | classify (t : BitVec 32)
  deriving DecidableEq, Repr

/-- A selector word: one of the four formats of rule R88. -/
inductive SelWord where
  /-- Bits 23:0 the CMD word of R80, bit 24 BUSY. -/
  | cmd25 (w : BitVec 25)
  /-- EV, STATE, HB_IDX, ACC_NZ, BF_DONE, LAST_LEVEL, from bit 0 up. -/
  | dsel15 (w : BitVec 15)
  /-- The DKEY of R77. -/
  | dkey5 (w : BitVec 5)
  /-- The interval. -/
  | interval32 (w : BitVec 32)
  deriving DecidableEq, Repr

end Sys2Proof
end

