-- ==== Sys2Proof/WellFormed.lean ====
section
/-! DEFINITION. Which operation terms stand for a row of the opcode table: the ranges that rows with an index or a
class operand put on it (R83, R102, R103, R105, R133, R134). -/

namespace Sys2Proof

/-- An operand in the range its row admits. ENC_DATA1 takes the odd indices 1 to 31, ENC_DATA2 the even 2 to 32,
ENC_SETTLE 34 to 43 (R83); DEC_BAD_LOW is reached only when the high interval is valid (R134). -/
def Instr.wellFormed : Instr → Bool
  | .encData1 i => i.toNat % 2 == 1 && decide (i.toNat ≤ 31)
  | .encData2 i => i.toNat % 2 == 0 && decide (2 ≤ i.toNat) && decide (i.toNat ≤ 32)
  | .encSettle i => decide (34 ≤ i.toNat) && decide (i.toNat ≤ 43)
  | .decBadLow _ high => high != .invalid
  | .start _ | .startRej _ | .readStatus _ | .reset _ | .encStart2 | .encStop | .encTurn | .encEnd | .hbIdle
  | .eofDetect | .stopIgnore | .capFall | .capSeed | .capDecode | .capOrder | .capIgnore | .decBadHigh _ _
  | .dec0SS | .dec0SL | .dec0LS | .dec0LL | .dec1SS | .dec1SL | .dec1LS | .dec1LL | .classify _ => true

/-- The decidable proposition of `Instr.wellFormed`. -/
abbrev Instr.WellFormed (i : Instr) : Prop := i.wellFormed = true

end Sys2Proof
end

