-- ==== Sys2Proof/Decode.lean ====
section
/-! DEFINITION. The decoder of the four selector words (rules R83, R88), rejecting by name what no row selects, and
after it the encoder, from the same encodings, and the host's numbering of table words. -/

namespace Sys2Proof

/-- Why a selector word is no operation. -/
inductive DecodeError where
  /-- A CMD word whose OP is not 0x01, 0x02 or 0x03 (R80, R185). -/
  | reservedOp (op : BitVec 8)
  /-- `STATE = 3` (R84). -/
  | stateCode
  /-- `HB_IDX` in 46..63 (R84). -/
  | halfBitIndex
  /-- No flag is pending: the dispatcher is not entered (R78, R150). -/
  | noEntry
  /-- A half-bit match in SENDING with `HB_IDX = 45`, which no row selects (R153). -/
  | noRow
  /-- The class code 0b11 (R76, R84). -/
  | classCode
  deriving DecidableEq, Repr

/-! ### Caller operations -/

/-- The `OP` field of a `cmd25` word, bits 23:16 (R80). -/
def cmdOp (w : BitVec 25) : BitVec 8 := w.extractLsb' 16 8

/-- The `OPERAND` field, bits 15:0 (R80). -/
def cmdOperand (w : BitVec 25) : BitVec 16 := w.extractLsb' 0 16

/-- The `BUSY` bit that rule R88 puts above the CMD word. -/
def cmdBusy (w : BitVec 25) : Bool := w.getLsbD 24

/-- The four `cmd25` rows. -/
def decodeCmd (w : BitVec 25) : Except DecodeError Instr :=
  if cmdOp w = 0x01 then .ok (if cmdBusy w then .startRej (cmdOperand w) else .start (cmdOperand w))
  else if cmdOp w = 0x02 then .ok (.readStatus (cmdOperand w))
  else if cmdOp w = 0x03 then .ok (.reset (cmdOperand w))
  else .error (.reservedOp (cmdOp w))

/-! ### Dispatcher entries -/

/-- The fields of a `dsel15` word (R88). -/
structure Dsel where
  /-- EV bit 3. -/
  rx : Bool
  /-- EV bit 2. -/
  irCap : Bool
  /-- EV bit 1. -/
  irStop : Bool
  /-- EV bit 0. -/
  irHb : Bool
  /-- Bits 5:4. -/
  state : BitVec 2
  /-- Bits 11:6. -/
  hbIdx : BitVec 6
  /-- Bit 12. -/
  accNz : Bool
  /-- Bit 13. -/
  bfDone : Bool
  /-- Bit 14. -/
  lastLevel : Bool
  deriving DecidableEq, Repr

/-- The fields at their bits (R88). -/
def packDsel (d : Dsel) : BitVec 15 :=
  BitVec.ofBool d.lastLevel ++ BitVec.ofBool d.bfDone ++ BitVec.ofBool d.accNz ++ d.hbIdx ++ d.state ++
    BitVec.ofBool d.rx ++ BitVec.ofBool d.irCap ++ BitVec.ofBool d.irStop ++ BitVec.ofBool d.irHb

/-- The fields read back from their bits. -/
def unpackDsel (w : BitVec 15) : Dsel :=
  { irHb := w.getLsbD 0, irStop := w.getLsbD 1, irCap := w.getLsbD 2, rx := w.getLsbD 3,
    state := w.extractLsb' 4 2, hbIdx := w.extractLsb' 6 6, accNz := w.getLsbD 12, bfDone := w.getLsbD 13,
    lastLevel := w.getLsbD 14 }

/-- The event kind `EV_STOP` (R78): a stop match and no half-bit match. -/
abbrev Dsel.EvStop (d : Dsel) : Prop := d.irHb = false ∧ d.irStop = true

/-- The event kinds `EV_CAP_FALL` and `EV_CAP_RISE` (R78): only the capture flag. -/
abbrev Dsel.EvCap (d : Dsel) : Prop := d.irHb = false ∧ d.irStop = false ∧ d.irCap = true

/-- The `dsel15` rows in the table's order, first match (R83, R88); the reserved codes of R84 are rejected first. -/
def selectEntry (d : Dsel) : Except DecodeError Instr :=
  if d.state = 3 then .error .stateCode
  else if 45 < d.hbIdx.toNat then .error .halfBitIndex
  else if d.irHb = true ∧ d.state = stSending ∧ d.hbIdx = 0 then .ok .encStart2
  else if d.irHb = true ∧ d.state = stSending ∧ d.hbIdx.toNat ≤ 31 ∧ d.hbIdx.toNat % 2 = 1 then .ok (.encData1 d.hbIdx)
  else if d.irHb = true ∧ d.state = stSending ∧ 2 ≤ d.hbIdx.toNat ∧ d.hbIdx.toNat ≤ 32 ∧
      d.hbIdx.toNat % 2 = 0 then .ok (.encData2 d.hbIdx)
  else if d.irHb = true ∧ d.state = stSending ∧ d.hbIdx = 33 then .ok .encStop
  else if d.irHb = true ∧ d.state = stSending ∧ 34 ≤ d.hbIdx.toNat ∧ d.hbIdx.toNat ≤ 43 then .ok (.encSettle d.hbIdx)
  else if d.irHb = true ∧ d.state = stSending ∧ d.hbIdx = 44 then .ok .encTurn
  else if d.irHb = true ∧ d.state = stReceiving then .ok .encEnd
  else if d.irHb = true ∧ d.state = stIdle then .ok .hbIdle
  else if d.EvStop ∧ d.state = stReceiving ∧ d.accNz = true ∧ d.bfDone = false then .ok .eofDetect
  else if d.EvStop then .ok .stopIgnore
  else if d.EvCap ∧ d.rx = false ∧ d.state = stReceiving ∧ d.bfDone = false ∧ d.lastLevel = true then .ok .capFall
  else if d.EvCap ∧ d.rx = true ∧ d.state = stReceiving ∧ d.accNz = false ∧ d.bfDone = false ∧ d.lastLevel = false then
    .ok .capSeed
  else if d.EvCap ∧ d.rx = true ∧ d.state = stReceiving ∧ d.accNz = true ∧ d.bfDone = false ∧ d.lastLevel = false then
    .ok .capDecode
  else if d.EvCap ∧ d.state = stReceiving ∧ d.bfDone = false then .ok .capOrder
  else if d.EvCap then .ok .capIgnore
  else if d.irHb = true then .error .noRow
  else .error .noEntry

/-! ### The decode step -/

/-- The 2-bit code of a class (R76). -/
def IntervalClass.code : IntervalClass → BitVec 2
  | .invalid => 0
  | .short => 1
  | .long => 2

/-- The class of a code; 0b11 is none (R76, R84). -/
def classOfCode (c : BitVec 2) : Option IntervalClass :=
  if c = 0 then some .invalid else if c = 1 then some .short else if c = 2 then some .long else none

/-- `DKEY = {PREV, CLASS(T_HIGH), CLASS(T_LOW)}` (R77). -/
def packDkey (prev : Bool) (high low : IntervalClass) : BitVec 5 := BitVec.ofBool prev ++ high.code ++ low.code

/-- The row that (PREV, class of T_HIGH, class of T_LOW) selects: the high interval is checked first (R135), then
the low, then the truth table (R130). -/
def selectRow (prev : Bool) (high low : IntervalClass) : Instr :=
  match high, low, prev with
  | .invalid, l, p => .decBadHigh p l
  | h, .invalid, p => .decBadLow p h
  | .short, .short, false => .dec0SS
  | .long, .short, false => .dec0SL
  | .short, .long, false => .dec0LS
  | .long, .long, false => .dec0LL
  | .short, .short, true => .dec1SS
  | .long, .short, true => .dec1SL
  | .short, .long, true => .dec1LS
  | .long, .long, true => .dec1LL

/-- The `dkey5` rows, first match (R77, R88). -/
def decodeDkey (w : BitVec 5) : Except DecodeError Instr :=
  match classOfCode (w.extractLsb' 2 2), classOfCode (w.extractLsb' 0 2) with
  | some high, some low => .ok (selectRow (w.getLsbD 4) high low)
  | _, _ => .error .classCode

/-! ### The decoder and the encoder -/

/-- The operation a selector word selects, or why there is none. -/
def decode : SelWord → Except DecodeError Instr
  | .cmd25 w => decodeCmd w
  | .dsel15 w => selectEntry (unpackDsel w)
  | .dkey5 w => decodeDkey w
  | .interval32 w => .ok (.classify w)

/-- A `cmd25` word: BUSY above the 24-bit CMD word (R88). -/
def packCmd (busy : Bool) (cmd : BitVec 24) : BitVec 25 := BitVec.ofBool busy ++ cmd

/-- A CMD word: OP above OPERAND (R80). -/
def cmdWord (op : BitVec 8) (operand : BitVec 16) : BitVec 24 := op ++ operand

/-- The `dsel15` word of a half-bit match with RX at the idle level and no backward frame. -/
def hbWord (state : BitVec 2) (i : BitVec 6) : SelWord :=
  .dsel15 (packDsel { rx := true, irCap := false, irStop := false, irHb := true, state := state, hbIdx := i,
                      accNz := false, bfDone := false, lastLevel := true })

/-- The `dsel15` word of a stop match in RECEIVING. -/
def stopWord (accNz : Bool) : SelWord :=
  .dsel15 (packDsel { rx := true, irCap := false, irStop := true, irHb := false, state := stReceiving, hbIdx := 45,
                      accNz := accNz, bfDone := false, lastLevel := true })

/-- The `dsel15` word of a capture with level `rx`. -/
def capWord (rx : Bool) (state : BitVec 2) (accNz lastLevel : Bool) : SelWord :=
  .dsel15 (packDsel { rx := rx, irCap := true, irStop := false, irHb := false, state := state, hbIdx := 45,
                      accNz := accNz, bfDone := false, lastLevel := lastLevel })

/-- One selector word of each operation. The operands stand at their bits; a bit that the row leaves free and that
is no operand takes a value it has in some reachable state. -/
def encode : Instr → SelWord
  | .start f => .cmd25 (packCmd false (cmdWord 0x01 f))
  | .startRej f => .cmd25 (packCmd true (cmdWord 0x01 f))
  | .readStatus x => .cmd25 (packCmd false (cmdWord 0x02 x))
  | .reset x => .cmd25 (packCmd false (cmdWord 0x03 x))
  | .encStart2 => hbWord stSending 0
  | .encData1 i => hbWord stSending i
  | .encData2 i => hbWord stSending i
  | .encStop => hbWord stSending 33
  | .encSettle i => hbWord stSending i
  | .encTurn => hbWord stSending 44
  | .encEnd => hbWord stReceiving 45
  | .hbIdle => hbWord stIdle 0
  | .eofDetect => stopWord true
  | .stopIgnore => stopWord false
  | .capFall => capWord false stReceiving false true
  | .capSeed => capWord true stReceiving false false
  | .capDecode => capWord true stReceiving true false
  | .capOrder => capWord true stReceiving false true
  | .capIgnore => capWord true stIdle false true
  | .decBadHigh prev low => .dkey5 (packDkey prev .invalid low)
  | .decBadLow prev high => .dkey5 (packDkey prev high .invalid)
  | .dec0SS => .dkey5 (packDkey false .short .short)
  | .dec0SL => .dkey5 (packDkey false .long .short)
  | .dec0LS => .dkey5 (packDkey false .short .long)
  | .dec0LL => .dkey5 (packDkey false .long .long)
  | .dec1SS => .dkey5 (packDkey true .short .short)
  | .dec1SL => .dkey5 (packDkey true .long .short)
  | .dec1LS => .dkey5 (packDkey true .short .long)
  | .dec1LL => .dkey5 (packDkey true .long .long)
  | .classify t => .interval32 t

/-! ### The host's numbering of table words -/

/-- The operation of a decoder's answer. -/
def toOption (r : Except DecodeError Instr) : Option Instr :=
  match r with
  | .ok i => some i
  | .error _ => none

/-- The format a table word of `nbits` bits and value `w` is read in. The opcode table's words carry no format, so
it is taken from the width, and where two formats have rows of one width, from the value (log 16). -/
def tableWord (nbits w : Nat) : SelWord :=
  if nbits ≤ 8 then
    if w < 32 ∧ w % 16 ≠ 1 ∧ w % 16 ≠ 2 ∧ w % 16 ≠ 4 then .dkey5 (BitVec.ofNat 5 w) else .dsel15 (BitVec.ofNat 15 w)
  else if nbits ≤ 16 then .dsel15 (BitVec.ofNat 15 w)
  else if nbits ≤ 24 then .cmd25 (BitVec.ofNat 25 w)
  else if w < 2 ^ 25 ∧ 1 ≤ w / 2 ^ 16 % 2 ^ 8 ∧ w / 2 ^ 16 % 2 ^ 8 ≤ 3 then .cmd25 (BitVec.ofNat 25 w)
  else .interval32 (BitVec.ofNat 32 w)

/-- What the decoder reads from a table word of `nbits` bits and value `w`. -/
def decodeTableWord (nbits w : Nat) : Option Instr :=
  if w < 2 ^ nbits ∧ (8 < nbits ∧ nbits ≤ 16 → w < 2 ^ 15) then toOption (decode (tableWord nbits w)) else none

end Sys2Proof
end

