-- ==== Sys2Proof/Machine/State.lean ====
section
/-! DEFINITION. The state of the core, of the timer and of the environment as plain data (rules R20 to R41), the
events of the environment's trace, the reasons a step can stop, and the state after RESET (R40). -/

namespace Sys2Proof.Machine

/-- One event of the trace the environment follows: a step of the Caller, the Timer or the Line (R13, R57; log 3,
log 4). -/
inductive Event where
  /-- One tick of the reference environment, with the level the Line agent gives `RX` (R217). -/
  | tick (rx : Level)
  /-- A caller operation with its CMD word (R80). -/
  | call (cmd : BitVec 24)
  /-- The Line agent sets `RX` between two ticks, or with no ticks at all (R86 `RX v`). -/
  | line (rx : Level)
  /-- Transaction level: the half-bit match flag becomes pending (R86 `EV HB`). -/
  | evHb
  /-- Transaction level: the stop match flag becomes pending (R86 `EV STOP`). -/
  | evStop
  /-- Transaction level: a capture of the value `n` with the line at `v` (R86 `EV CAP v n`). -/
  | evCap (v : Level) (n : Nat)
  deriving DecidableEq, Repr

/-- An event and its place beside a dispatcher entry due at the same instant. Without `first` the entry goes before it,
as in the reference environment (R217, R218). With `first` it goes before the entry, unless that entry is chained to
another (R163): a caller operation ordered before an entry (R238), a second flag raised before the first is served
(R209), or a tick that passes before it is served, which is interrupt latency (R218). -/
structure Stimulus where
  /-- Whether the event goes before a pending entry. -/
  first : Bool
  /-- The event. -/
  event : Event
  deriving DecidableEq, Repr

/-- What the last operation returned to its caller (R38, R81, R82, R120); log 7. -/
inductive Result where
  /-- Nothing yet, or RESET, which returns nothing. -/
  | none
  /-- START's bit: 1 ACCEPTED, 0 REJECTED_BUSY (R82). -/
  | start (accepted : Bool)
  /-- READ_STATUS's word (R81). -/
  | status (word : BitVec 32)
  /-- The classifier's class (R120). -/
  | cls (c : IntervalClass)
  deriving DecidableEq, Repr

/-- The machine. Registers whose width is a parameter of rule R6 are natural numbers below 2 to that width (R10,
log 13). -/
structure State where
  /-- The parameter set; no step writes it (R39, R234, log 1). -/
  params : Params
  /-- `STATE` (R21). -/
  state : BitVec 2
  /-- `BUSY` (R22). -/
  busy : Bool
  /-- `HB_IDX` (R23). -/
  hbIdx : BitVec 6
  /-- `POL`, which drives `TX` (R24). -/
  pol : Bool
  /-- `FWD` (R25). -/
  fwd : BitVec 16
  /-- `BF_ACC`, `BF_W` bits (R26). -/
  bfAcc : Nat
  /-- `BF_DONE` (R27). -/
  bfDone : Bool
  /-- `PREV` (R28). -/
  prev : Bool
  /-- `T_HIGH`, `TIMER_W` bits (R29). -/
  tHigh : Nat
  /-- `T_LOW`, `TIMER_W` bits (R30). -/
  tLow : Nat
  /-- `LAST_LEVEL` (R31). -/
  lastLevel : Bool
  /-- `ANSWER` (R32). -/
  answer : BitVec 8
  /-- `ANSWER_VALID` (R33). -/
  answerValid : Bool
  /-- `ERR` (R34). -/
  err : BitVec 3
  /-- `CNT`, `TIMER_W` bits (R36). -/
  cnt : Nat
  /-- `IR_HB` (R36). -/
  irHb : Bool
  /-- `IR_STOP` (R36). -/
  irStop : Bool
  /-- `IR_CAP` (R36). -/
  irCap : Bool
  /-- `CAP_VAL`, `TIMER_W` bits (R36). -/
  capVal : Nat
  /-- `RX`, the level of the input line (R38). -/
  rx : Level
  /-- The level of `RX` at the previous tick (R216). -/
  prevRx : Level
  /-- The value of the last operation on its port. -/
  result : Result
  /-- What the environment does next. -/
  env : List Stimulus
  /-- An entry has just returned with a flag still set (R163). -/
  chained : Bool
  deriving DecidableEq, Repr

/-- Why the machine stops with a fault. -/
inductive Fault where
  /-- The state breaks an invariant of rule R43 (R84, R207). Raised by every operation that reads the Transfer State
  but RESET, and by every event of the environment. Safe: no such state is reached from RESET (log 10). -/
  | brokenInvariant
  /-- An operation was executed in a state that does not select it. Raised by `exec` alone, never by a step, which
  executes what the state selects. Safe (log 9). -/
  | notSelected
  deriving DecidableEq, Repr

/-- Why the machine takes no step. -/
inductive Refusal where
  /-- An operation with no meaning in the model; no arm of `exec` answers it. Safe. -/
  | notModelled (mnemonic : String)
  /-- A CMD word with a reserved op code (R185). Raised by a step on a caller operation. Safe: the spec says so. -/
  | reservedOp
  /-- A parameter set that fails rule R7. Raised by every step. Safe: the spec says so. -/
  | parameterSet
  deriving DecidableEq, Repr

/-- The state after RESET (R40, R230) under a parameter set, with nothing left in the trace. -/
def State.resetWith (p : Params) : State :=
  { params := p, state := stIdle, busy := false, hbIdx := 0, pol := true, fwd := 0, bfAcc := 0, bfDone := false,
    prev := false, tHigh := 0, tLow := 0, lastLevel := true, answer := 0, answerValid := false, err := 0, cnt := 0,
    irHb := false, irStop := false, irCap := false, capVal := 0, rx := true, prevRx := true, result := .none,
    env := [], chained := false }

/-- The machine right after reset, with the default parameters (R6, R40). -/
def State.reset : State := State.resetWith Params.defaults

end Sys2Proof.Machine
end

