-- ==== Sys2Proof/Machine/Flags.lean ====
section
/-! DEFINITION. The one-bit conditions the spec computes from the state: the timer configuration of rule R37, the
outputs of R38, the hardwired REPEAT (R35), the event kinds of R78 and the invariants of R43. -/

namespace Sys2Proof.Machine

/-! ### Ports and timer configuration -/

/-- `REPEAT`, hardwired to 0 (R35). -/
def State.repeatFlag (_ : State) : Bool := false

/-- The output `TX`, driven with `POL` at all times (R24, R38). -/
def State.tx (s : State) : Level := s.pol

/-- The output `REPLY_RECEIVED` (R38). -/
def State.replyReceived (s : State) : Bool := s.answerValid

/-- `IRQ = IR_HB or IR_STOP or IR_CAP` (R38). -/
def State.irq (s : State) : Bool := s.irHb || s.irStop || s.irCap

/-- `RUN`: the counter counts (R37). -/
def State.run (s : State) : Bool := s.state != stIdle

/-- `HB_EN`: the half-bit match is enabled (R37). -/
def State.hbEn (s : State) : Bool := s.state != stIdle

/-- `MR_HB`, the half-bit match value (R37). -/
def State.mrHb (s : State) : Nat := if s.state = stReceiving then s.params.wdT else s.params.te

/-- `ACC_NZ = (BF_ACC != 0)` (R88). -/
def State.accNz (s : State) : Bool := s.bfAcc != 0

/-- A backward frame is in progress: `STATE = RECEIVING and BF_ACC != 0 and BF_DONE = 0`, the condition of `STOP_EN`
(R37), EOF_DETECT (R145) and the decode step (R130). -/
abbrev State.InFrame (s : State) : Prop := s.state = stReceiving ∧ s.bfAcc ≠ 0 ∧ s.bfDone = false

/-- `STOP_EN`: the stop match is enabled (R37). -/
def State.stopEn (s : State) : Bool := decide s.InFrame

/-- `MR_STOP`, the stop match value (R37). -/
def State.mrStop (s : State) : Nat := s.params.stopT

/-- `CAP_EN`: capture on both edges is enabled (R37). -/
def State.capEn (s : State) : Bool := s.state != stSending

/-! ### Event kinds -/

/-- `EV_HB`: a half-bit match is pending (R78). -/
abbrev State.EvHb (s : State) : Prop := s.irHb = true

/-- `EV_STOP`: a stop match is pending and no half-bit match (R78). -/
abbrev State.EvStop (s : State) : Prop := s.irHb = false ∧ s.irStop = true

/-- `EV_CAP_FALL` or `EV_CAP_RISE`: only a capture is pending (R78). -/
abbrev State.EvCap (s : State) : Prop := s.irHb = false ∧ s.irStop = false ∧ s.irCap = true

/-! ### The invariants of rule R43 -/

/-- R43 (1): `BUSY = 1` iff `STATE != IDLE`. -/
abbrev State.BusyIffNotIdle (s : State) : Prop := s.busy = true ↔ s.state ≠ stIdle

/-- R43 (2): what holds while SENDING. -/
abbrev State.SendingIsClean (s : State) : Prop :=
  s.state = stSending →
    s.hbIdx.toNat ≤ 44 ∧ s.bfAcc = 0 ∧ s.bfDone = false ∧ s.prev = false ∧ s.answerValid = false ∧ s.err = 0

/-- R43 (3): `STATE = RECEIVING` implies `HB_IDX = 45`. -/
abbrev State.ReceivingIndex (s : State) : Prop := s.state = stReceiving → s.hbIdx = 45

/-- R43 (4): `BF_DONE = 1` implies `BF_ACC >= 2` and `STATE = RECEIVING`. -/
abbrev State.DoneHasBits (s : State) : Prop := s.bfDone = true → 2 ≤ s.bfAcc ∧ s.state = stReceiving

/-- R43 (5): `BF_ACC = 0` implies `PREV = 0`. -/
abbrev State.EmptyHasNoPrev (s : State) : Prop := s.bfAcc = 0 → s.prev = false

/-- R43 (6): `ANSWER_VALID = 1` implies `STATE = IDLE`. -/
abbrev State.ValidOnlyIdle (s : State) : Prop := s.answerValid = true → s.state = stIdle

/-- R43 (7): `STATE != 3`, `ERR <= 4` and `HB_IDX <= 45`. -/
abbrev State.CodesInRange (s : State) : Prop := s.state ≠ 3 ∧ s.err.toNat ≤ 4 ∧ s.hbIdx.toNat ≤ 45

/-- Rule R43, all seven clauses. -/
abbrev State.Legal (s : State) : Prop :=
  s.BusyIffNotIdle ∧ s.SendingIsClean ∧ s.ReceivingIndex ∧ s.DoneHasBits ∧ s.EmptyHasNoPrev ∧ s.ValidOnlyIdle ∧
    s.CodesInRange

end Sys2Proof.Machine
end

