-- ==== Sys2Proof/Machine/Operands.lean ====
section
/-! DEFINITION. What an operation reads: the registers by name (rules R21 to R36), the classifier (R120), the
polarity function (R100), and the words the machine forms from its state: the selector words (R88), DKEY (R77) and
the status word (R81). -/

namespace Sys2Proof.Machine

/-! ### Registers by name -/

/-- The registers of the Transfer State and of the timer, and the two input levels. -/
inductive Reg where
  | state
  | busy
  | hbIdx
  | pol
  | fwd
  | bfAcc
  | bfDone
  | prev
  | tHigh
  | tLow
  | lastLevel
  | answer
  | answerValid
  | err
  | repeatFlag
  | cnt
  | irHb
  | irStop
  | irCap
  | capVal
  | rx
  | prevRx
  deriving DecidableEq, Repr

/-- The value a register holds, as a number. `REPEAT` reads as 0 (R35). -/
def State.get (s : State) : Reg → Nat
  | .state => s.state.toNat
  | .busy => s.busy.toNat
  | .hbIdx => s.hbIdx.toNat
  | .pol => s.pol.toNat
  | .fwd => s.fwd.toNat
  | .bfAcc => s.bfAcc
  | .bfDone => s.bfDone.toNat
  | .prev => s.prev.toNat
  | .tHigh => s.tHigh
  | .tLow => s.tLow
  | .lastLevel => s.lastLevel.toNat
  | .answer => s.answer.toNat
  | .answerValid => s.answerValid.toNat
  | .err => s.err.toNat
  | .repeatFlag => s.repeatFlag.toNat
  | .cnt => s.cnt
  | .irHb => s.irHb.toNat
  | .irStop => s.irStop.toNat
  | .irCap => s.irCap.toNat
  | .capVal => s.capVal
  | .rx => s.rx.toNat
  | .prevRx => s.prevRx.toNat

/-! ### Pure functions -/

/-- `CLASSIFY(t)` (R120): both windows are open, and SHORT is tested first (R122). -/
def classify (p : Params) (t : Nat) : IntervalClass :=
  if p.minTe < t ∧ t < p.maxTe then .short
  else if p.min2Te < t ∧ t < p.max2Te then .long
  else .invalid

/-- `ENC_POL(frame, i)` for `i` in 0..43 (R100): the start bit's second half, the data halves `!b` and `b`, the stop
condition. -/
def encPol (frame : BitVec 16) (i : Nat) : Level :=
  if i = 0 then true
  else if i ≤ 32 then (if i % 2 = 1 then !frameBit frame i else frameBit frame i)
  else true

/-! ### Words formed from the state -/

/-- The class of the last high interval. -/
def State.highClass (s : State) : IntervalClass := classify s.params s.tHigh

/-- The class of the last low interval. -/
def State.lowClass (s : State) : IntervalClass := classify s.params s.tLow

/-- `DKEY` (R77). -/
def State.dkey (s : State) : BitVec 5 := packDkey s.prev s.highClass s.lowClass

/-- The fields of the `dsel15` word, read at an entry (R78, R88). -/
def State.dsel (s : State) : Dsel :=
  { rx := s.rx, irCap := s.irCap, irStop := s.irStop, irHb := s.irHb, state := s.state, hbIdx := s.hbIdx,
    accNz := s.accNz, bfDone := s.bfDone, lastLevel := s.lastLevel }

/-- The `dsel15` word (R88). -/
def State.dselWord (s : State) : BitVec 15 := packDsel s.dsel

/-- READ_STATUS's word (R81, R182): bit 0 BUSY, 1 VALID, 4:2 ERR, 6:5 STATE, 7 POL, 15:8 ANSWER, 21:16 HB_IDX,
22 DONE, 23 PREV, 24 LAST_LEVEL, 31:25 zero. -/
def State.statusWord (s : State) : BitVec 32 :=
  0#7 ++ BitVec.ofBool s.lastLevel ++ BitVec.ofBool s.prev ++ BitVec.ofBool s.bfDone ++ s.hbIdx ++ s.answer ++
    BitVec.ofBool s.pol ++ s.state ++ s.err ++ BitVec.ofBool s.answerValid ++ BitVec.ofBool s.busy

end Sys2Proof.Machine
end

