-- ==== Sys2Proof/Machine/Ops.lean ====
section
/-! DEFINITION. The shared operations: when an operation may run, the prologue of an interrupt entry (rules R151,
R152, the core's only exception entry, R210), recording an error (R200), the decoder's primitives (R131, R132), and
the timer and line (R213 to R217). -/

namespace Sys2Proof.Machine

/-- The outcome of a step of this machine. -/
abbrev Out := Host.Outcome State Fault Refusal

/-- `f` applied to the next state, if there is one. -/
def onNext (o : Out) (f : State → State) : Out :=
  match o with
  | .next t => .next (f t)
  | .fault e => .fault e
  | .refused r => .refused r

/-- `k`, in a state that keeps rule R43 and selects the operation; a fault otherwise (R84, R207; log 9, log 10). -/
def guarded (s : State) (sel : Prop) [Decidable sel] (k : Out) : Out :=
  if s.Legal then (if sel then k else .fault .notSelected) else .fault .brokenInvariant

/-! ### Interrupt entry -/

/-- The entry that serves the half-bit match: `CNT <- 0; IR_HB <- 0` (R151, R152). -/
def State.enterHb (s : State) : State := { s with cnt := 0, irHb := false }

/-- The entry that serves the stop match: `CNT <- 0; IR_STOP <- 0` (R151, R152). -/
def State.enterStop (s : State) : State := { s with cnt := 0, irStop := false }

/-- The entry that serves the capture: `CNT <- 0; IR_CAP <- 0` (R151, R152). -/
def State.enterCap (s : State) : State := { s with cnt := 0, irCap := false }

/-! ### Encoder and decoder primitives -/

/-- `POL <- v; HB_IDX <- HB_IDX + 1` (R101 to R105, R108). -/
def State.emit (s : State) (v : Level) : State := { s with pol := v, hbIdx := s.hbIdx + 1 }

/-- `CLEAR_BF()`: `BF_ACC <- 0; PREV <- 0` (R132). -/
def State.clearBf (s : State) : State := { s with bfAcc := 0, prev := false }

/-- `SHIFT(x)`: `BF_ACC <- ((BF_ACC << 1) or x) mod 2^BF_W` (R131). -/
def State.shiftIn (s : State) (x : Bool) : State :=
  { s with bfAcc := (2 * s.bfAcc + x.toNat) % 2 ^ s.params.bfW }

/-- `PREV <- v`. -/
def State.setPrev (s : State) (v : Bool) : State := { s with prev := v }

/-- The seed of a backward frame: `BF_ACC <- 1; PREV <- 1` (R144). -/
def State.seed (s : State) : State := { s with bfAcc := 1, prev := true }

/-- `BF_DONE <- 1` (R145). -/
def State.markDone (s : State) : State := { s with bfDone := true }

/-- A falling edge's record: `T_HIGH <- CAP_VAL; LAST_LEVEL <- 0` (R159). -/
def State.recordHigh (s : State) : State := { s with tHigh := s.capVal, lastLevel := false }

/-- A rising edge's record: `T_LOW <- CAP_VAL; LAST_LEVEL <- 1` (R160, R161). -/
def State.recordLow (s : State) : State := { s with tLow := s.capVal, lastLevel := true }

/-- `LAST_LEVEL <- RX` (R158). -/
def State.sampleLevel (s : State) : State := { s with lastLevel := s.rx }

/-- The turnaround: `STATE <- RECEIVING; LAST_LEVEL <- RX; HB_IDX <- HB_IDX + 1` (R106). -/
def State.turnAround (s : State) : State := { s with state := stReceiving, lastLevel := s.rx, hbIdx := s.hbIdx + 1 }

/-- An error: `CLEAR_BF(); ERR <- code`, after which the core goes on (R200). -/
def State.recordError (s : State) (code : BitVec 3) : State := { s.clearBf with err := code }

/-- `ERR_BAD_LOW` (R79, R202). -/
abbrev errBadLow : BitVec 3 := 1

/-- `ERR_BAD_HIGH` (R79, R201). -/
abbrev errBadHigh : BitVec 3 := 2

/-- `ERR_PROTOCOL` (R79, R203). -/
abbrev errProtocol : BitVec 3 := 3

/-- `ERR_ORDER` (R79, R204). -/
abbrev errOrder : BitVec 3 := 4

/-! ### Ports, trace and reset -/

/-- A value returned to the caller (log 7). -/
def State.answerWith (s : State) (r : Result) : State := { s with result := r }

/-- The rest of the trace. -/
def State.withEnv (s : State) (es : List Stimulus) : State := { s with env := es }

/-- The record of a chained entry (R163). -/
def State.withChained (s : State) (b : Bool) : State := { s with chained := b }

/-- RESET (R230): every register and timer piece takes its value of R40, and so does the record of the previous RX
level. The parameters, the level the Line drives and the rest of the trace stay (log 6). -/
def State.resetAll (s : State) : State := { State.resetWith s.params with rx := s.rx, env := s.env }

/-! ### Timer and line -/

/-- The Line agent sets `RX` (R86). -/
def State.setRx (s : State) (v : Level) : State := { s with rx := v }

/-- The half-bit match flag becomes pending (R86). -/
def State.raiseHb (s : State) : State := { s with irHb := true }

/-- The stop match flag becomes pending (R86). -/
def State.raiseStop (s : State) : State := { s with irStop := true }

/-- The counter at a tick (R213). -/
def State.count (s : State) : State :=
  if s.run then { s with cnt := (s.cnt + 1) % 2 ^ s.params.timerW } else s

/-- The half-bit compare (R214). -/
def State.compareHb (s : State) : State :=
  if s.hbEn = true ∧ s.cnt = s.mrHb then s.raiseHb else s

/-- The stop compare (R215). -/
def State.compareStop (s : State) : State :=
  if s.stopEn = true ∧ s.cnt = s.mrStop then s.raiseStop else s

/-- The capture of an edge, and the record of this tick's level for the next (R216). -/
def State.capture (s : State) : State :=
  if s.rx ≠ s.prevRx ∧ s.capEn = true then { s with capVal := s.cnt, irCap := true, prevRx := s.rx }
  else { s with prevRx := s.rx }

/-- Steps (1) to (4) of a tick of the reference environment (R217), with `RX(t) = level`. -/
def State.tick (s : State) (level : Level) : State :=
  (s.setRx level).count.compareHb.compareStop.capture

/-- A capture of the transaction-level environment (R86, R223); the value is cut to the capture register's width
(R10, log 14). -/
def State.deliverCap (s : State) (v : Level) (n : Nat) : State :=
  { s with rx := v, capVal := n % 2 ^ s.params.timerW, irCap := true }

end Sys2Proof.Machine
end

