-- ==== Sys2Proof/Machine/Caller.lean ====
section
/-! DEFINITION. The caller's operations (44_caller.md, rules R180 to R182; RESET, R230). -/

namespace Sys2Proof.Machine

/-- What an accepted START writes (R180); `LAST_LEVEL` and `CAP_VAL` are not written. -/
def State.startTransfer (s : State) (frame : BitVec 16) : State :=
  { s with
    fwd := frame, hbIdx := 0, bfAcc := 0, bfDone := false, prev := false, tHigh := 0, tLow := 0, answer := 0,
    answerValid := false, err := 0, irHb := false, irStop := false, irCap := false, cnt := 0, pol := false,
    state := stSending, busy := true }

/-- START (R180): the transfer starts, and the result is ACCEPTED. -/
def execStart (frame : BitVec 16) (s : State) : Out :=
  guarded s (s.busy = false) (.next ((s.startTransfer frame).answerWith (.start true)))

/-- START while busy (R181): nothing is written, and the result is REJECTED_BUSY. -/
def execStartRej (_frame : BitVec 16) (s : State) : Out :=
  guarded s (s.busy = true) (.next (s.answerWith (.start false)))

/-- READ_STATUS (R182): nothing is written, and the result is the status word. -/
def execReadStatus (_operand : BitVec 16) (s : State) : Out :=
  guarded s True (.next (s.answerWith (.status s.statusWord)))

/-- RESET (R230), accepted in every state. -/
def execReset (_operand : BitVec 16) (s : State) : Out :=
  .next s.resetAll

end Sys2Proof.Machine
end

