-- ==== Sys2Proof/Machine/Classifier.lean ====
section
/-! DEFINITION. The Timing Classifier as an operation of its own (41_classifier.md, rule R120). -/

namespace Sys2Proof.Machine

/-- CLASSIFY (R120): the class of the interval `t`. It writes no state; the class is its result (log 7, log 8). The
core evaluates the function inside CAP_DECODE (R123). -/
def execClassify (t : BitVec 32) (s : State) : Out :=
  .next (s.answerWith (.cls (classify s.params t.toNat)))

end Sys2Proof.Machine
end

