-- ==== Sys2Proof/Machine/Encoder.lean ====
section
/-! DEFINITION. The Frame Encoder's half-bit match entries (40_encoder.md, rules R101 to R107). -/

namespace Sys2Proof.Machine

/-- ENC_START2 (R101): `POL <- 1; HB_IDX <- 1`. -/
def execEncStart2 (s : State) : Out :=
  guarded s (s.EvHb ∧ s.state = stSending ∧ s.hbIdx = 0) (.next (s.enterHb.emit true))

/-- ENC_DATA1 (R102): `b <- FWD[16 - (i+1)/2]; POL <- !b; HB_IDX <- i + 1`, for odd `i` in 1..31. -/
def execEncData1 (i : BitVec 6) (s : State) : Out :=
  guarded s (s.EvHb ∧ s.state = stSending ∧ s.hbIdx = i ∧ i.toNat % 2 = 1 ∧ i.toNat ≤ 31)
    (.next (s.enterHb.emit (!s.fwd.getLsbD (16 - (i.toNat + 1) / 2))))

/-- ENC_DATA2 (R103): `b <- FWD[16 - i/2]; POL <- b; HB_IDX <- i + 1`, for even `i` in 2..32. -/
def execEncData2 (i : BitVec 6) (s : State) : Out :=
  guarded s (s.EvHb ∧ s.state = stSending ∧ s.hbIdx = i ∧ i.toNat % 2 = 0 ∧ 2 ≤ i.toNat ∧ i.toNat ≤ 32)
    (.next (s.enterHb.emit (s.fwd.getLsbD (16 - i.toNat / 2))))

/-- ENC_STOP (R104): `POL <- 1; HB_IDX <- 34`. -/
def execEncStop (s : State) : Out :=
  guarded s (s.EvHb ∧ s.state = stSending ∧ s.hbIdx = 33) (.next (s.enterHb.emit true))

/-- ENC_SETTLE (R105): `POL <- 1; HB_IDX <- i + 1`, for `i` in 34..43. -/
def execEncSettle (i : BitVec 6) (s : State) : Out :=
  guarded s (s.EvHb ∧ s.state = stSending ∧ s.hbIdx = i ∧ 34 ≤ i.toNat ∧ i.toNat ≤ 43)
    (.next (s.enterHb.emit true))

/-- ENC_TURN (R106): `STATE <- RECEIVING; LAST_LEVEL <- RX; HB_IDX <- 45`; `POL` is not written. -/
def execEncTurn (s : State) : Out :=
  guarded s (s.EvHb ∧ s.state = stSending ∧ s.hbIdx = 44)
    (.next s.enterHb.turnAround)

/-- The end-of-transfer action (R107): the answer is published if the frame completed, the backward frame is
cleared, the core is idle. REPEAT is 0, so nothing is re-armed (R109). -/
def State.endTransfer (s : State) : State :=
  { s with
    answer := if s.bfDone then BitVec.ofNat 8 s.bfAcc else s.answer
    answerValid := s.bfDone || s.answerValid
    bfAcc := 0, bfDone := false, prev := false, busy := false, state := stIdle }

/-- ENC_END (R107, R154): the reply watchdog expires. -/
def execEncEnd (s : State) : Out :=
  guarded s (s.EvHb ∧ s.state = stReceiving) (.next s.enterHb.endTransfer)

end Sys2Proof.Machine
end

