-- ==== Sys2Proof/Machine/Decoder.lean ====
section
/-! DEFINITION. The Backward-Frame Decoder: the rows of the decode step (42_decoder.md, rules R130 to R143). -/

namespace Sys2Proof.Machine

/-- A row of the decode step: `t`, when a backward frame is in progress (R130) and (PREV, class of T_HIGH, class of
T_LOW) is the row's key. -/
def decodeRow (s : State) (prev : Bool) (high low : IntervalClass) (t : State) : Out :=
  guarded s (s.InFrame ∧ s.prev = prev ∧ s.highClass = high ∧ s.lowClass = low) (.next t)

/-- DEC_BAD_HIGH (R133): `CLEAR_BF(); ERR <- ERR_BAD_HIGH`. -/
def execDecBadHigh (prev : Bool) (low : IntervalClass) (s : State) : Out :=
  decodeRow s prev .invalid low (s.recordError errBadHigh)

/-- DEC_BAD_LOW (R134): `CLEAR_BF(); ERR <- ERR_BAD_LOW`, the high interval being valid. -/
def execDecBadLow (prev : Bool) (high : IntervalClass) (s : State) : Out :=
  if high = .invalid then .fault .notSelected else decodeRow s prev high .invalid (s.recordError errBadLow)

/-- DEC_0SS (R136): `SHIFT(0)`. -/
def execDec0SS (s : State) : Out := decodeRow s false .short .short (s.shiftIn false)

/-- DEC_0SL (R137): the protocol error. -/
def execDec0SL (s : State) : Out := decodeRow s false .long .short (s.recordError errProtocol)

/-- DEC_0LS (R138): `SHIFT(0); SHIFT(1); PREV <- 1`. -/
def execDec0LS (s : State) : Out :=
  decodeRow s false .short .long (((s.shiftIn false).shiftIn true).setPrev true)

/-- DEC_0LL (R139): the protocol error. -/
def execDec0LL (s : State) : Out := decodeRow s false .long .long (s.recordError errProtocol)

/-- DEC_1SS (R140): `SHIFT(1)`. -/
def execDec1SS (s : State) : Out := decodeRow s true .short .short (s.shiftIn true)

/-- DEC_1SL (R141): `SHIFT(0); PREV <- 0`. -/
def execDec1SL (s : State) : Out := decodeRow s true .long .short ((s.shiftIn false).setPrev false)

/-- DEC_1LS (R142): the protocol error. -/
def execDec1LS (s : State) : Out := decodeRow s true .short .long (s.recordError errProtocol)

/-- DEC_1LL (R143): `SHIFT(0); SHIFT(1); PREV <- 1`. -/
def execDec1LL (s : State) : Out :=
  decodeRow s true .long .long (((s.shiftIn false).shiftIn true).setPrev true)

/-- `DECODE_STEP` (R130): both classes, then the row of the table they select with `PREV`; the high interval is
checked first (R135). -/
def decodeStep (s : State) : Out :=
  match s.highClass, s.lowClass, s.prev with
  | .invalid, low, prev => execDecBadHigh prev low s
  | high, .invalid, prev => execDecBadLow prev high s
  | .short, .short, false => execDec0SS s
  | .long, .short, false => execDec0SL s
  | .short, .long, false => execDec0LS s
  | .long, .long, false => execDec0LL s
  | .short, .short, true => execDec1SS s
  | .long, .short, true => execDec1SL s
  | .short, .long, true => execDec1LS s
  | .long, .long, true => execDec1LL s

end Sys2Proof.Machine
end

