-- ==== Sys2Proof/Machine/Entries.lean ====
section
/-! DEFINITION. The Timer/Edge Dispatcher's entries that are not the encoder's (43_dispatcher.md, rules R155 to
R161; the seed R144 and the end-of-frame detector R145 of 42_decoder.md). -/

namespace Sys2Proof.Machine

/-- HB_IDLE (R155): a half-bit match in IDLE changes nothing but the flag and the counter. -/
def execHbIdle (s : State) : Out :=
  guarded s (s.EvHb ∧ s.state = stIdle) (.next s.enterHb)

/-- EOF_DETECT (R145, R156): `if BF_ACC >= 2 then BF_DONE <- 1 else CLEAR_BF()`. -/
def execEofDetect (s : State) : Out :=
  guarded s (s.EvStop ∧ s.InFrame)
    (.next (if 2 ≤ s.bfAcc then s.enterStop.markDone else s.enterStop.clearBf))

/-- STOP_IGNORE (R156): any other stop match changes nothing but the flag and the counter. -/
def execStopIgnore (s : State) : Out :=
  guarded s (s.EvStop ∧ ¬ s.InFrame) (.next s.enterStop)

/-- CAP_FALL (R159): `T_HIGH <- CAP_VAL; LAST_LEVEL <- 0`. -/
def execCapFall (s : State) : Out :=
  guarded s (s.EvCap ∧ s.rx = false ∧ s.state = stReceiving ∧ s.bfDone = false ∧ s.lastLevel = true)
    (.next s.enterCap.recordHigh)

/-- CAP_SEED (R160, R144): `T_LOW <- CAP_VAL; LAST_LEVEL <- 1; BF_ACC <- 1; PREV <- 1`. -/
def execCapSeed (s : State) : Out :=
  guarded s (s.EvCap ∧ s.rx = true ∧ s.state = stReceiving ∧ s.bfAcc = 0 ∧ s.bfDone = false ∧ s.lastLevel = false)
    (.next s.enterCap.recordLow.seed)

/-- CAP_DECODE (R161): `T_LOW <- CAP_VAL; LAST_LEVEL <- 1`, then `DECODE_STEP` with the new `T_LOW`. -/
def execCapDecode (s : State) : Out :=
  guarded s (s.EvCap ∧ s.rx = true ∧ s.InFrame ∧ s.lastLevel = false)
    (decodeStep s.enterCap.recordLow)

/-- CAP_ORDER (R158): `CLEAR_BF(); ERR <- ERR_ORDER; LAST_LEVEL <- lvl`. -/
def execCapOrder (s : State) : Out :=
  guarded s (s.EvCap ∧ s.state = stReceiving ∧ s.bfDone = false ∧ s.rx = s.lastLevel)
    (.next (s.enterCap.recordError errOrder).sampleLevel)

/-- CAP_IGNORE (R157): outside reception and after completion a capture changes nothing but the flag and the
counter. -/
def execCapIgnore (s : State) : Out :=
  guarded s (s.EvCap ∧ (s.state ≠ stReceiving ∨ s.bfDone = true)) (.next s.enterCap)

end Sys2Proof.Machine
end

