-- ==== Sys2Proof/Machine/Dispatch.lean ====
section
/-! DEFINITION. One arm per operation: the meaning `exec` gives it. -/

namespace Sys2Proof.Machine

def exec (i : Instr) (s : State) : Host.Outcome State Fault Refusal :=
  match i with
  | .start f => Sys2Proof.Machine.execStart f s
  | .startRej f => Sys2Proof.Machine.execStartRej f s
  | .readStatus x => Sys2Proof.Machine.execReadStatus x s
  | .reset x => Sys2Proof.Machine.execReset x s
  | .encStart2 => Sys2Proof.Machine.execEncStart2 s
  | .encData1 k => Sys2Proof.Machine.execEncData1 k s
  | .encData2 k => Sys2Proof.Machine.execEncData2 k s
  | .encStop => Sys2Proof.Machine.execEncStop s
  | .encSettle k => Sys2Proof.Machine.execEncSettle k s
  | .encTurn => Sys2Proof.Machine.execEncTurn s
  | .encEnd => Sys2Proof.Machine.execEncEnd s
  | .hbIdle => Sys2Proof.Machine.execHbIdle s
  | .eofDetect => Sys2Proof.Machine.execEofDetect s
  | .stopIgnore => Sys2Proof.Machine.execStopIgnore s
  | .capFall => Sys2Proof.Machine.execCapFall s
  | .capSeed => Sys2Proof.Machine.execCapSeed s
  | .capDecode => Sys2Proof.Machine.execCapDecode s
  | .capOrder => Sys2Proof.Machine.execCapOrder s
  | .capIgnore => Sys2Proof.Machine.execCapIgnore s
  | .decBadHigh p c => Sys2Proof.Machine.execDecBadHigh p c s
  | .decBadLow p c => Sys2Proof.Machine.execDecBadLow p c s
  | .dec0SS => Sys2Proof.Machine.execDec0SS s
  | .dec0SL => Sys2Proof.Machine.execDec0SL s
  | .dec0LS => Sys2Proof.Machine.execDec0LS s
  | .dec0LL => Sys2Proof.Machine.execDec0LL s
  | .dec1SS => Sys2Proof.Machine.execDec1SS s
  | .dec1SL => Sys2Proof.Machine.execDec1SL s
  | .dec1LS => Sys2Proof.Machine.execDec1LS s
  | .dec1LL => Sys2Proof.Machine.execDec1LL s
  | .classify t => Sys2Proof.Machine.execClassify t s

end Sys2Proof.Machine
end

