-- ==== Sys2Proof/Machine/Fetch.lean ====
section
/-! DEFINITION. How the next operation comes to run: the choice between the dispatcher and the environment (rules
R150, R163, R217, R238), the serving of an entry and of an event, and how a table word is placed for the next step
(log 17). -/

namespace Sys2Proof.Machine

/-- What the machine answers for a selector word that no row selects: a reserved op code is refused (R185), a code
that no rule writes is a broken invariant (R84). -/
def rejected (e : DecodeError) : Out :=
  match e with
  | .reservedOp _ => .refused .reservedOp
  | .stateCode | .halfBitIndex | .noEntry | .noRow | .classCode => .fault .brokenInvariant

/-- The operation a selector word selects, executed. -/
def runSelected (w : SelWord) (s : State) : Out :=
  match decode w with
  | .ok i => exec i s
  | .error e => rejected e

/-- Whether the environment's next event goes before a pending entry (R218, R238). -/
def goesFirst (es : List Stimulus) : Bool :=
  match es with
  | [] => false
  | e :: _ => e.first

/-- Whether the next step is a dispatcher entry: `IRQ = 1` (R150), and either the entry is chained to the one before
(R163) or no event goes first (R238). -/
def State.entryNext (s : State) : Bool := s.irq && (s.chained || !goesFirst s.env)

/-- One dispatcher entry (R150 to R163): the operation the event word selects; a flag still set afterwards chains the
next entry to this one. -/
def serveInterrupt (s : State) : Out :=
  onNext (runSelected (.dsel15 s.dselWord) s) fun t => t.withChained t.irq

/-- The effect of one event of the environment. -/
def handle (e : Event) (s : State) : Out :=
  match e with
  | .tick v => guarded s True (.next (s.tick v))
  | .line v => guarded s True (.next (s.setRx v))
  | .evHb => guarded s True (.next s.raiseHb)
  | .evStop => guarded s True (.next s.raiseStop)
  | .evCap v n => guarded s True (.next (s.deliverCap v n))
  | .call cmd => runSelected (.cmd25 (packCmd s.busy cmd)) s

/-- One step of the environment: the next event, taken off the trace. With no event left, the Line holds its level and
a tick passes (log 3). -/
def serveEnvironment (s : State) : Out :=
  match s.env with
  | [] => handle (.tick s.rx) s
  | e :: es => handle e.event (s.withEnv es)

/-! ### Placing a table word -/

/-- IDLE, with no backward frame. -/
def State.placeIdle (s : State) : State :=
  { s with state := stIdle, busy := false, bfAcc := 0, bfDone := false, prev := false }

/-- SENDING at the index `i`, kept within the 0..44 of R43 (2). -/
def State.placeSending (s : State) (i : BitVec 6) : State :=
  { s with state := stSending, busy := true, hbIdx := if i.toNat ≤ 44 then i else 44, bfAcc := 0, bfDone := false,
           prev := false, answerValid := false, err := 0 }

/-- RECEIVING with an accumulator, PREV being its last bit (R146). -/
def State.placeReceiving (s : State) (acc : Nat) (done : Bool) : State :=
  { s with state := stReceiving, busy := true, hbIdx := 45, bfAcc := acc, bfDone := done, prev := acc % 2 == 1,
           answerValid := false }

/-- An event as the next, before any pending entry. -/
def State.placeEvent (s : State) (e : Event) : State :=
  (s.withEnv ({ first := true, event := e } :: s.env)).withChained false

/-- The fields of a `dsel15` word placed in the state, those of R43 adjusted to it, and the entry due at once. -/
def State.placeDsel (s : State) (d : Dsel) : State :=
  let t := { s with rx := d.rx, irCap := d.irCap, irStop := d.irStop, irHb := d.irHb, lastLevel := d.lastLevel,
                    chained := true }
  if d.state = stIdle then { t.placeIdle with hbIdx := d.hbIdx }
  else if d.state = stSending then t.placeSending d.hbIdx
  else t.placeReceiving (if d.bfDone then 2 else if d.accNz then 1 else 0) d.bfDone

/-- A caller operation as the next event, with BUSY as its word says where the row asks for it. -/
def State.placeCmd (s : State) (w : BitVec 25) : State :=
  let t := s.placeEvent (.call (w.extractLsb' 0 24))
  if cmdOp w = 0x01 ∧ cmdBusy w = true ∧ s.busy = false then t.placeSending 0
  else if cmdOp w = 0x01 ∧ cmdBusy w = false ∧ s.busy = true then t.placeIdle
  else t

/-- An interval of a class, by the parameters' windows. -/
def exampleOf (p : Params) : IntervalClass → Nat
  | .invalid => 0
  | .short => p.minTe + 1
  | .long => p.min2Te + 1

/-- A CAP_DECODE entry due at once, with an accumulator, a recorded high interval and a captured low interval: the one
step in which the core runs a decode step and the classifier (R123, R161). -/
def State.placeDecode (s : State) (acc high low : Nat) : State :=
  { s.placeReceiving acc false with
    tHigh := high % 2 ^ s.params.timerW, tLow := low % 2 ^ s.params.timerW, capVal := low % 2 ^ s.params.timerW,
    rx := true, lastLevel := false, irHb := false, irStop := false, irCap := true, chained := true }

/-- The entry whose decode step has the word's key: PREV, and two intervals of the word's classes. -/
def State.placeDkey (s : State) (w : BitVec 5) : State :=
  s.placeDecode (if w.getLsbD 4 then 1 else 2)
    (exampleOf s.params ((classOfCode (w.extractLsb' 2 2)).getD .invalid))
    (exampleOf s.params ((classOfCode (w.extractLsb' 0 2)).getD .invalid))

/-- A selector word placed so that the next step runs the operation it selects. -/
def State.place (s : State) : SelWord → State
  | .cmd25 w => s.placeCmd w
  | .dsel15 w => s.placeDsel (unpackDsel w)
  | .dkey5 w => s.placeDkey w
  | .interval32 t => s.placeDecode 1 t.toNat s.params.te

end Sys2Proof.Machine
end

