-- ==== Sys2Proof/Machine/Step.lean ====
section
/-! DEFINITION. One step of the machine, and the placing of a table word for it. -/

namespace Sys2Proof.Machine

/-- One step: a parameter set that fails rule R7 is refused; else a dispatcher entry, if it is due; else the next
event of the environment. -/
def step (s : State) : Host.Outcome State Fault Refusal :=
  if ¬ s.params.WellFormed then .refused .parameterSet
  else if s.entryNext = true then serveInterrupt s
  else serveEnvironment s

/-- `s` with the table word of `nbits` bits and value `w` placed where the next step takes its operation (log 17). -/
def State.withFetchWord (s : State) (nbits w : Nat) : State := s.place (tableWord nbits w)

end Sys2Proof.Machine
end

