-- ==== Sys2Proof/Machine/Command.lean ====
section
/-! DEFINITION. The Command API's pseudo-operations, each the CMD word of one START (rule R87). They lie outside the
core, and their opcodes are parameters. -/

namespace Sys2Proof.Machine

/-- The selector byte of a short address: `(a << 1) or 1` (R87). -/
def selectorOf (a : BitVec 6) : BitVec 8 := 0#1 ++ a ++ 1#1

/-- `BROADCAST c` (R87). -/
def broadcast (q : CommandParams) (c : BitVec 8) : BitVec 24 := cmdWord 0x01 (q.selBcast ++ c)

/-- `TURN_ON a` (R87). -/
def turnOn (q : CommandParams) (a : BitVec 6) : BitVec 24 := cmdWord 0x01 (selectorOf a ++ q.opcOn)

/-- `TURN_OFF a` (R87). -/
def turnOff (q : CommandParams) (a : BitVec 6) : BitVec 24 := cmdWord 0x01 (selectorOf a ++ q.opcOff)

/-- `QUERY_DEVICE_TYPE a` (R87). -/
def queryDeviceType (q : CommandParams) (a : BitVec 6) : BitVec 24 := cmdWord 0x01 (selectorOf a ++ q.opcQdt)

/-- `QUERY_SHORT_ADDRESS` (R87). -/
def queryShortAddress (q : CommandParams) : BitVec 24 := cmdWord 0x01 (q.selQsa ++ 0x00#8)

end Sys2Proof.Machine
end

