-- ==== Sys2Proof/Machine/Environment.lean ====
section
/-! DEFINITION. The line as a function of time: the cell convention (rule R73), the waveform of a forward frame (R71,
R110), the named line environments (R221), and the traces they give the machine (R86, R217). -/

namespace Sys2Proof.Machine

/-- The half-bit levels of a sequence of cells: a bit of value `v` is `!v`, then `v` (R73). -/
def halves (bits : List Bool) : List Level := bits.flatMap fun v => [!v, v]

/-- The bits of a forward frame in the order they go on the line, most significant first (R72). -/
def frameBits (frame : BitVec 16) : List Bool := (List.range 16).map fun k => frame.getLsbD (15 - k)

/-- The level of TX `t` µs after an accepted START, with no later START (R71, R110). -/
def waveform (p : Params) (frame : BitVec 16) (t : Nat) : Level :=
  if t / p.te = 0 then false else if t / p.te ≤ 44 then encPol frame (t / p.te - 1) else true

/-- The SILENT line (R221). -/
def silent (_t : Nat) : Level := true

/-- The line of SLAVE(bits, t1) (R221): a start cell of value 1 and the cells of `bits` from `t1` on, each half `TE`
long. -/
def slave (p : Params) (bits : List Bool) (t1 t : Nat) : Level :=
  if t < t1 then true else (halves (true :: bits)).getD ((t - t1) / p.te) true

/-- The line of ECHO(d) (R221), for a START of `frame` at time 0: TX during SENDING, `d` µs later. -/
def echo (p : Params) (frame : BitVec 16) (d t : Nat) : Level :=
  if d ≤ t ∧ t < d + 45 * p.te then waveform p frame (t - d) else true

/-- The ticks `t0 + 1` to `t0 + n` of a line (R217). -/
def ticks (line : Nat → Level) (t0 n : Nat) : List Stimulus :=
  (List.range n).map fun k => { first := false, event := .tick (line (t0 + k + 1)) }

/-- The edges of a sequence of half-bit levels, each half `te` long: the new level and the time since the edge
before. `prev` is the level so far and `since` how long it has lasted. -/
def edges (te : Nat) : Level → Nat → List Level → List (Level × Nat)
  | _, _, [] => []
  | prev, since, l :: rest =>
    if l = prev then edges te prev (since + te) rest else (l, since) :: edges te l te rest

/-- The number of ticks in a trace. -/
def ticksIn : List Stimulus → Nat
  | [] => 0
  | e :: es => (match e.event with
      | .tick _ => 1
      | .call _ | .line _ | .evHb | .evStop | .evCap _ _ => 0) + ticksIn es

/-- The level of RX after a trace, from the level before it. -/
def levelAfter (v : Level) : List Stimulus → Level
  | [] => v
  | e :: es => levelAfter (match e.event with
      | .tick w | .line w | .evCap w _ => w
      | .call _ | .evHb | .evStop => v) es

/-- An event of the reference environment that is no RESET and no reserved op code: a tick, a change of the line, a
START or a READ_STATUS (R217, R219, R220). -/
def Event.undisturbing : Event → Bool
  | .tick _ | .line _ => true
  | .call cmd => cmd.extractLsb' 16 8 == 0x01 || cmd.extractLsb' 16 8 == 0x02
  | .evHb | .evStop | .evCap _ _ => false

/-- A trace of such events in the order of the reference environment: none goes before a due entry (R218). -/
def undisturbed (es : List Stimulus) : Bool := es.all fun e => !e.first && e.event.undisturbing

/-- A backward frame in the format of R74 as capture entries of the transaction level (R86): a start cell of value 1,
the cells of `bits`, and the idle level; the line has been idle for `gap`. -/
def replyEvents (te gap : Nat) (bits : List Bool) : List Stimulus :=
  (edges te true gap (halves (true :: bits) ++ [true])).map fun e => { first := false, event := .evCap e.1 e.2 }

/-- The number the bits spell, the first the most significant (R75). -/
def bitsValue (bits : List Bool) : Nat := bits.foldl (fun n b => 2 * n + b.toNat) 0

end Sys2Proof.Machine
end

