-- ==== Sys2Proof/Safety.lean ====
section
/-! DEFINITION. What holds of the machine in every run from RESET: the invariants of rule R43 (State.Legal, in
Machine/Flags.lean) and those stated below, in the terms the statements use. -/

namespace Sys2Proof.Machine

/-- Every register of a parametric width holds a value of that width (R10, R26, R29, R30, R36). -/
abbrev State.WidthsHold (s : State) : Prop :=
  s.bfAcc < 2 ^ s.params.bfW ∧ s.tHigh < 2 ^ s.params.timerW ∧ s.tLow < 2 ^ s.params.timerW ∧
    s.cnt < 2 ^ s.params.timerW ∧ s.capVal < 2 ^ s.params.timerW

/-- PREV is the last bit shifted into a non-empty accumulator (R146 (a)). -/
abbrev State.PrevIsLastBit (s : State) : Prop := s.bfAcc ≠ 0 → s.prev = (s.bfAcc % 2 == 1)

/-- TX carries the waveform of R71: 0 in the pre slot, `ENC_POL` in slot `HB_IDX - 1`, and 1 outside SENDING. -/
abbrev State.TxFollowsEncoder (s : State) : Prop :=
  (s.state = stSending → s.pol = (s.hbIdx.toNat != 0 && encPol s.fwd (s.hbIdx.toNat - 1))) ∧
    (s.state ≠ stSending → s.pol = true)

/-- While a transfer runs the counter has not reached the armed match value, or the match is pending (R213, R214). -/
abbrev State.CounterInBound (s : State) : Prop := s.state ≠ stIdle → s.cnt < s.mrHb ∨ s.irHb = true

/-- A chained entry has a flag to serve (R163). -/
abbrev State.ChainHasFlag (s : State) : Prop := s.chained = true → s.irq = true

/-- No interrupt is pending: the environment goes next. -/
abbrev State.Quiet (s : State) : Prop := s.irq = false

/-- The frame of an operation: every register but those listed holds what it held, and the parameters, the trace and
the chain are as they were. -/
abbrev OnlyWrites (ws : List Reg) (s t : State) : Prop :=
  (∀ r, r ∉ ws → t.get r = s.get r) ∧ t.params = s.params ∧ t.env = s.env ∧ t.chained = s.chained

/-- The dispatcher's choice of an entry in the order of its own rules: the source by R152, then R153 to R156, and the
captures in the order R157 to R161. -/
def entryByRules (s : State) : Option Instr :=
  if s.irHb = true then
    if s.state = stSending then
      if s.hbIdx.toNat = 0 then some .encStart2
      else if s.hbIdx.toNat ≤ 32 then (if s.hbIdx.toNat % 2 = 1 then some (.encData1 s.hbIdx) else some (.encData2 s.hbIdx))
      else if s.hbIdx.toNat = 33 then some .encStop
      else if s.hbIdx.toNat ≤ 43 then some (.encSettle s.hbIdx)
      else some .encTurn
    else if s.state = stReceiving then some .encEnd
    else some .hbIdle
  else if s.irStop = true then
    if s.state = stReceiving ∧ s.bfAcc ≠ 0 ∧ s.bfDone = false then some .eofDetect else some .stopIgnore
  else if s.irCap = true then
    if s.state ≠ stReceiving ∨ s.bfDone = true then some .capIgnore
    else if s.rx = s.lastLevel then some .capOrder
    else if s.rx = false then some .capFall
    else if s.bfAcc = 0 then some .capSeed
    else some .capDecode
  else none

/-- `n` steps, to the first fault or refusal. -/
def runSteps : Nat → State → Out
  | 0, s => .next s
  | n + 1, s =>
    match step s with
    | .next t => runSteps n t
    | .fault f => .fault f
    | .refused r => .refused r

end Sys2Proof.Machine
end

