-- ==== Sys2Proof/Certificates/Slice0/Obligations.lean ====
section
/-! DEFINITION. The statements about the model, from the numbered rules of spec/. Each is about every state that meets
its hypotheses, reached or not. -/

open Sys2Proof Sys2Proof.Machine

/-! ### Encodings -/

/-- Decoding the encoded word of a well-formed operation gives the operation back, with every operand (R80, R83,
R88). -/
def Obligations.DecodeOfEncode : Prop :=
  ∀ i : Instr, i.WellFormed → decode (encode i) = .ok i

/-- Whatever word of whatever format the decoder accepts, the operation it gives is well formed. -/
def Obligations.DecodedIsWellFormed : Prop :=
  ∀ (w : SelWord) (i : Instr), decode w = .ok i → i.WellFormed

/-- A caller's word is recovered from its operation: the CMD word whole, and BUSY where the operation depends on it
(R80). -/
def Obligations.EncodeOfDecodedCommand : Prop :=
  ∀ (busy : Bool) (cmd : BitVec 24) (i : Instr), decode (.cmd25 (packCmd busy cmd)) = .ok i →
    ∃ b, encode i = .cmd25 (packCmd b cmd) ∧ (cmd.extractLsb' 16 8 = 0x01 → b = busy)

/-- Words written out from the encodings of R80, R77 and R88 (a sanity statement). -/
def Obligations.HandWrittenWordsDecode : Prop :=
  decode (.cmd25 0x001FF05#25) = .ok (.start 0xFF05) ∧ decode (.cmd25 0x1010F05#25) = .ok (.startRej 0x0F05) ∧
    decode (.cmd25 0x002ABCD#25) = .ok (.readStatus 0xABCD) ∧
    decode (.dsel15 0b1_0_0_000101_01_1_0_0_1#15) = .ok (.encData1 5) ∧
    decode (.dsel15 0b1_1_1_101101_10_0_1_0_0#15) = .ok .capIgnore ∧ decode (.dkey5 0b0_10_01#5) = .ok .dec0SL

/-- The dispatcher's word selects, in the table's first-match order, the entry that the dispatcher's rules select in
theirs (R83, R88, R152). -/
def Obligations.EntrySelectionFollowsRules : Prop :=
  ∀ s : State, s.Legal → toOption (decode (.dsel15 s.dselWord)) = entryByRules s

/-- The status word holds each field at its bits, and zero above them (R81). -/
def Obligations.StatusWordLayout : Prop :=
  ∀ s : State,
    s.statusWord.getLsbD 0 = s.busy ∧ s.statusWord.getLsbD 1 = s.answerValid ∧
      s.statusWord.extractLsb' 2 3 = s.err ∧ s.statusWord.extractLsb' 5 2 = s.state ∧
      s.statusWord.getLsbD 7 = s.pol ∧ s.statusWord.extractLsb' 8 8 = s.answer ∧
      s.statusWord.extractLsb' 16 6 = s.hbIdx ∧ s.statusWord.getLsbD 22 = s.bfDone ∧
      s.statusWord.getLsbD 23 = s.prev ∧ s.statusWord.getLsbD 24 = s.lastLevel ∧
      s.statusWord.extractLsb' 25 7 = 0

/-! ### What a step runs -/

/-- A pending interrupt is served before the environment's next event, unless that event goes first and the entry is
not chained: the step runs the operation the event word selects, and records whether a flag is left (R150, R163). -/
def Obligations.StepServesInterrupt : Prop :=
  ∀ (s : State) (i : Instr), s.params.WellFormed → s.irq = true →
    (s.chained = true ∨ ∀ e es, s.env = e :: es → e.first = false) → decode (.dsel15 s.dselWord) = .ok i →
    step s = onNext (exec i s) fun t => { t with chained := t.irq }

/-- Otherwise a caller operation at the head of the trace runs: the operation that its CMD word and BUSY select, in
the state with the operation taken off the trace (R80, R238). -/
def Obligations.StepServesCaller : Prop :=
  ∀ (s : State) (cmd : BitVec 24) (first : Bool) (es : List Stimulus) (i : Instr), s.params.WellFormed →
    s.env = { first := first, event := .call cmd } :: es → (s.irq = false ∨ (s.chained = false ∧ first = true)) →
    decode (.cmd25 (packCmd s.busy cmd)) = .ok i → step s = exec i { s with env := es }

/-- The decode step and the classifier run inside a due CAP_DECODE entry, and nowhere else: the step is the row that
the entry's DKEY selects, on the state with the entry's own writes, and the classes of the key are the results of
CLASSIFY (R77, R123, R130, R161). The chained field is the model's (log 4), and so is CLASSIFY as an operation with a
result (log 7, log 8). -/
def Obligations.StepServesFunctions : Prop :=
  ∀ (s : State) (i : Instr), s.params.WellFormed → s.Legal →
    (s.chained = true ∨ ∀ e es, s.env = e :: es → e.first = false) → s.irHb = false → s.irStop = false →
    s.irCap = true → s.rx = true → s.state = stReceiving → s.bfAcc ≠ 0 → s.bfDone = false → s.lastLevel = false →
    decode (.dkey5 (packDkey s.prev (classify s.params s.tHigh) (classify s.params s.capVal))) = .ok i →
    (step s = onNext (exec i { s with cnt := 0, irCap := false, tLow := s.capVal, lastLevel := true }) fun t =>
        { t with chained := t.irq }) ∧
      ∀ k : BitVec 32, k.toNat = s.tHigh ∨ k.toNat = s.capVal →
        decode (.interval32 k) = .ok (.classify k) ∧
          ∃ u, exec (.classify k) s = .next u ∧ u.result = .cls (classify s.params k.toNat)

/-- A CMD word with a reserved op code is refused, in every state (R185). -/
def Obligations.ReservedOpIsRefused : Prop :=
  ∀ (s : State) (cmd : BitVec 24) (first : Bool) (es : List Stimulus), s.params.WellFormed →
    s.env = { first := first, event := .call cmd } :: es → (s.irq = false ∨ (s.chained = false ∧ first = true)) →
    cmd.extractLsb' 16 8 ≠ 0x01 → cmd.extractLsb' 16 8 ≠ 0x02 → cmd.extractLsb' 16 8 ≠ 0x03 →
    step s = .refused .reservedOp

/-- A parameter set that fails R7 is refused, whatever the state. That every step answers so before anything else, a
RESET among them, is the model's reading (log 11). -/
def Obligations.BadParametersAreRefused : Prop :=
  ∀ s : State, ¬ s.params.WellFormed → step s = .refused .parameterSet

/-- A state that breaks R43 makes every step a fault, but for RESET and a refused op code (R84, R207). That all seven
clauses are checked at every other operation and event is the model's reading (log 10). -/
def Obligations.BrokenInvariantIsAFault : Prop :=
  ∀ s : State, s.params.WellFormed → ¬ s.Legal →
    (s.entryNext = true ∨
      ∀ e es cmd, s.env = e :: es → e.event = .call cmd →
        cmd.extractLsb' 16 8 = 0x01 ∨ cmd.extractLsb' 16 8 = 0x02) →
    step s = .fault .brokenInvariant

/-- One tick of the reference environment: the line, the count, the two compares on the new count, the capture, in
that order (R213 to R217). -/
def Obligations.TickOrder : Prop :=
  ∀ (s : State) (v : Level) (es : List Stimulus), s.params.WellFormed → s.Legal → s.irq = false →
    s.env = { first := false, event := .tick v } :: es →
    ∃ t, step s = .next t ∧ t.rx = v ∧ t.prevRx = v ∧
      t.cnt = (if s.state = stIdle then s.cnt else (s.cnt + 1) % 2 ^ s.params.timerW) ∧
      (t.irHb = true ↔ (s.state = stSending ∧ t.cnt = s.params.te) ∨ (s.state = stReceiving ∧ t.cnt = s.params.wdT)) ∧
      (t.irStop = true ↔ s.state = stReceiving ∧ s.bfAcc ≠ 0 ∧ s.bfDone = false ∧ t.cnt = s.params.stopT) ∧
      (t.irCap = true ↔ v ≠ s.prevRx ∧ s.state ≠ stSending) ∧
      t.capVal = (if t.irCap = true then t.cnt else s.capVal) ∧ t.env = es ∧ t.params = s.params ∧
      (∀ r, r ∉ [Reg.rx, .prevRx, .cnt, .irHb, .irStop, .irCap, .capVal] → t.get r = s.get r) ∧ t.result = s.result ∧
      t.chained = s.chained

/-- A second edge before the first capture is served overwrites the captured value: the capture overrun (R216). -/
def Obligations.CaptureOverrunOverwrites : Prop :=
  ∀ (s : State) (v : Level) (es : List Stimulus), s.params.WellFormed → s.Legal → s.chained = false → s.irCap = true →
    s.state ≠ stSending → v ≠ s.prevRx → s.env = { first := true, event := .tick v } :: es →
    ∃ t, step s = .next t ∧ t.irCap = true ∧ t.capVal = t.cnt ∧
      t.cnt = (if s.state = stIdle then s.cnt else (s.cnt + 1) % 2 ^ s.params.timerW) ∧ t.rx = v ∧ t.prevRx = v ∧
      t.env = es ∧ t.params = s.params ∧ t.result = s.result ∧ t.chained = s.chained ∧
      ∀ r, r ∉ [Reg.rx, .prevRx, .cnt, .irHb, .irStop, .capVal] → t.get r = s.get r

/-- In a legal state every step completes, except that a reserved op code whose turn it is is refused (R200, R210, R211,
R223). -/
def Obligations.LegalStatesStep : Prop :=
  ∀ s : State, s.params.WellFormed → s.Legal →
    (s.entryNext = false → ∀ e es cmd, s.env = e :: es → e.event = .call cmd →
      cmd.extractLsb' 16 8 = 0x01 ∨ cmd.extractLsb' 16 8 = 0x02 ∨ cmd.extractLsb' 16 8 = 0x03) →
    ∃ t, step s = .next t

/-- A RESET requested with one pending interrupt leaves the reset state whether it goes before the entry or after it
(R238 (3)). That the line's level and the rest of the trace stay is the model's choice (log 6). -/
def Obligations.ResetOrderDoesNotMatter : Prop :=
  ∀ (s : State) (x : BitVec 16) (es : List Stimulus), s.params.WellFormed → s.Legal → s.chained = false →
    s.irHb.toNat + s.irStop.toNat + s.irCap.toNat = 1 →
    runSteps 1 { s with env := { first := true, event := .call (cmdWord 0x03 x) } :: es } =
        .next { State.resetWith s.params with rx := s.rx, env := es } ∧
      runSteps 2 { s with env := { first := false, event := .call (cmdWord 0x03 x) } :: es } =
        .next { State.resetWith s.params with rx := s.rx, env := es }

/-- A START requested with the end of the transfer before it: rejected if it goes before the entry, accepted if after
(R238 (1)). -/
def Obligations.StartBesideEndOfTransfer : Prop :=
  ∀ (s : State) (f : BitVec 16), s.params.WellFormed → s.Legal → s.state = stReceiving → s.irHb = true →
    s.irStop = false → s.irCap = false → s.chained = false →
    (∃ t, runSteps 2 { s with env := [{ first := true, event := .call (cmdWord 0x01 f) }] } = .next t ∧
        t.result = .start false ∧ t.state = stIdle ∧ t.fwd = s.fwd) ∧
      ∃ t, runSteps 2 { s with env := [{ first := false, event := .call (cmdWord 0x01 f) }] } = .next t ∧
        t.result = .start true ∧ t.state = stSending ∧ t.fwd = f

/-! ### Invariants -/

/-- The state after RESET under a well-formed parameter set meets every invariant (R232). -/
def Obligations.ResetMeetsInvariants : Prop :=
  ∀ p : Params, p.WellFormed →
    (State.resetWith p).Legal ∧ (State.resetWith p).WidthsHold ∧ (State.resetWith p).PrevIsLastBit ∧
      (State.resetWith p).TxFollowsEncoder ∧ (State.resetWith p).CounterInBound ∧ (State.resetWith p).ChainHasFlag ∧
      State.reset = State.resetWith Params.defaults ∧ Params.defaults.WellFormed

/-- Every step keeps all seven clauses of R43. -/
def Obligations.StepKeepsLegal : Prop :=
  ∀ s t : State, s.Legal → step s = .next t → t.Legal

/-- Every step keeps the registers within their widths (R10). -/
def Obligations.StepKeepsWidths : Prop :=
  ∀ s t : State, s.WidthsHold → step s = .next t → t.WidthsHold

/-- Every step keeps PREV the last bit shifted in (R146 (a)). -/
def Obligations.StepKeepsPrevIsLastBit : Prop :=
  ∀ s t : State, s.Legal → s.PrevIsLastBit → step s = .next t → t.PrevIsLastBit

/-- Every step keeps TX on the waveform of the frame: the level of the slot HB_IDX is in while SENDING, 1 otherwise
(R71, R110). -/
def Obligations.StepKeepsTxOnWaveform : Prop :=
  ∀ s t : State, s.Legal → s.TxFollowsEncoder → step s = .next t → t.TxFollowsEncoder

/-- Every step keeps the counter below the armed match value, or the match pending (R213, R214). -/
def Obligations.StepKeepsCounterInBound : Prop :=
  ∀ s t : State, s.Legal → s.CounterInBound → step s = .next t → t.CounterInBound

/-- Every step keeps a flag pending under a chained entry (R163), and never changes the parameters (R234). -/
def Obligations.StepKeepsChainAndParameters : Prop :=
  ∀ s t : State, s.ChainHasFlag → step s = .next t → t.ChainHasFlag ∧ t.params = s.params

/-! ### Rules about the whole machine -/

/-- The state machine's transitions are those of R162: START leaves IDLE, the entry at index 44 leaves SENDING, the
half-bit match leaves RECEIVING, and RESET leaves any state for IDLE. -/
def Obligations.StateTransitions : Prop :=
  ∀ s t : State, s.Legal → step s = .next t → t.state ≠ s.state →
    (s.state = stIdle ∧ t.state = stSending ∧
        ∃ e es f, s.env = e :: es ∧ e.event = .call (cmdWord 0x01 f) ∧ t.env = es ∧ t.hbIdx = 0 ∧ t.tx = false) ∨
      (s.state = stSending ∧ t.state = stReceiving ∧ s.irHb = true ∧ s.hbIdx = 44 ∧ t.hbIdx = 45 ∧ t.bfAcc = 0) ∨
      (s.state = stReceiving ∧ t.state = stIdle ∧ s.irHb = true) ∨
      (t.state = stIdle ∧ ∃ e es x, s.env = e :: es ∧ e.event = .call (cmdWord 0x03 x) ∧ t.env = es)

/-- While a transfer runs the forward frame does not change (R25, R61); and a step that is neither a dispatcher entry
nor a RESET writes no register of the Transfer State at all (R58, R212). -/
def Obligations.FrameIsFixedDuringTransfer : Prop :=
  ∀ s t : State, s.Legal → step s = .next t → s.busy = true →
    (t.busy = true → t.fwd = s.fwd) ∧
      (s.entryNext = false → (∀ e es x, s.env = e :: es → e.event ≠ .call (cmdWord 0x03 x)) →
        ∀ r, r ∉ [Reg.rx, .prevRx, .cnt, .irHb, .irStop, .irCap, .capVal] → t.get r = s.get r)

/-- The half-bit index changes only by an entry of SENDING, which adds 1, or to 0 by START (R23, R108), or by RESET. R23
and R108 name START alone; that RESET writes the index is R40 and R230 (log 19). -/
def Obligations.IndexOnlyAdvances : Prop :=
  ∀ s t : State, s.Legal → step s = .next t → t.hbIdx ≠ s.hbIdx →
    (s.state = stSending ∧ s.irHb = true ∧ t.hbIdx.toNat = s.hbIdx.toNat + 1) ∨
      (t.hbIdx = 0 ∧ ∃ e es op x, s.env = e :: es ∧ e.event = .call (cmdWord op x) ∧ t.env = es ∧
        ((op = 0x01 ∧ s.busy = false ∧ t.busy = true) ∨ op = 0x03))

/-- ERR changes only in a capture entry of reception, to a code 1 to 4, with the backward frame emptied; or to 0 by START
or RESET (R34, R200 to R204). -/
def Obligations.ErrorsComeFromReception : Prop :=
  ∀ s t : State, s.Legal → step s = .next t → t.err ≠ s.err →
    (s.entryNext = true ∧ s.irHb = false ∧ s.irStop = false ∧ s.irCap = true ∧ s.state = stReceiving ∧
        s.bfDone = false ∧ t.state = stReceiving ∧ 1 ≤ t.err.toNat ∧ t.err.toNat ≤ 4 ∧ t.bfAcc = 0 ∧
        t.prev = false) ∨
      (t.err = 0 ∧ ∃ e es op x, s.env = e :: es ∧ e.event = .call (cmdWord op x) ∧ t.env = es ∧
        (op = 0x01 ∨ op = 0x03))

/-- A transfer ends in one step, which publishes the answer, its validity and BUSY together; the only other end is
RESET (R59, R107). -/
def Obligations.EndOfTransferIsAtomic : Prop :=
  ∀ s t : State, s.Legal → step s = .next t → s.busy = true → t.busy = false →
    (s.state = stReceiving ∧ s.irHb = true ∧ t.answerValid = s.bfDone ∧
        (s.bfDone = true → t.answer = BitVec.ofNat 8 s.bfAcc) ∧ t.err = s.err) ∨
      ∃ e es x, s.env = e :: es ∧ e.event = .call (cmdWord 0x03 x) ∧ t.env = es ∧ t.answerValid = false ∧ t.err = 0

/-! ### Caller operations -/

/-- START in an idle core (R180). -/
def Obligations.StartBeginsTransfer : Prop :=
  ∀ (f : BitVec 16) (s : State), s.Legal → s.busy = false →
    ∃ t, exec (.start f) s = .next t ∧ t.fwd = f ∧ t.hbIdx = 0 ∧ t.bfAcc = 0 ∧ t.bfDone = false ∧ t.prev = false ∧
      t.tHigh = 0 ∧ t.tLow = 0 ∧ t.answer = 0 ∧ t.answerValid = false ∧ t.err = 0 ∧ t.irHb = false ∧
      t.irStop = false ∧ t.irCap = false ∧ t.cnt = 0 ∧ t.pol = false ∧ t.state = stSending ∧ t.busy = true ∧
      t.result = .start true ∧ t.run = true ∧ t.hbEn = true ∧ t.mrHb = s.params.te ∧ t.capEn = false ∧
      OnlyWrites [.fwd, .hbIdx, .bfAcc, .bfDone, .prev, .tHigh, .tLow, .answer, .answerValid, .err, .irHb, .irStop,
        .irCap, .cnt, .pol, .state, .busy] s t

/-- START while busy: rejected, and nothing is written (R181). -/
def Obligations.StartWhileBusyIsRejected : Prop :=
  ∀ (f : BitVec 16) (s : State), s.Legal → s.busy = true →
    ∃ t, exec (.startRej f) s = .next t ∧ t.result = .start false ∧ OnlyWrites [] s t

/-- READ_STATUS returns the status word, whatever its operand, and writes nothing (R182). -/
def Obligations.ReadStatusReturnsWord : Prop :=
  ∀ (x : BitVec 16) (s : State), s.Legal →
    ∃ t, exec (.readStatus x) s = .next t ∧
      t.result = .status (0b0000000#7 ++ BitVec.ofBool s.lastLevel ++ BitVec.ofBool s.prev ++ BitVec.ofBool s.bfDone ++
        s.hbIdx ++ s.answer ++ BitVec.ofBool s.pol ++ s.state ++ s.err ++ BitVec.ofBool s.answerValid ++
        BitVec.ofBool s.busy) ∧
      OnlyWrites [] s t

/-- RESET acts in every state, broken ones among them: every register takes its value of the reset table (R40, R230),
and the parameters stay. -/
def Obligations.ResetWritesTable : Prop :=
  ∀ (x : BitVec 16) (s : State),
    ∃ t, exec (.reset x) s = .next t ∧ t.state = stIdle ∧ t.busy = false ∧ t.hbIdx = 0 ∧ t.pol = true ∧ t.fwd = 0 ∧
      t.bfAcc = 0 ∧ t.bfDone = false ∧ t.prev = false ∧ t.tHigh = 0 ∧ t.tLow = 0 ∧ t.lastLevel = true ∧ t.answer = 0 ∧
      t.answerValid = false ∧ t.err = 0 ∧ t.cnt = 0 ∧ t.irHb = false ∧ t.irStop = false ∧ t.irCap = false ∧
      t.capVal = 0 ∧ t.prevRx = true ∧ t.repeatFlag = false ∧ t.run = false ∧ t.params = s.params ∧
      t.statusWord = 0x01000080

/-! ### Encoder entries -/

/-- ENC_START2: POL 1 and index 1 (R101). -/
def Obligations.StartBitSecondHalf : Prop :=
  ∀ s : State, s.Legal → s.irHb = true → s.state = stSending → s.hbIdx = 0 →
    ∃ t, exec .encStart2 s = .next t ∧ t.pol = true ∧ t.hbIdx = 1 ∧ t.cnt = 0 ∧ t.irHb = false ∧
      t.result = s.result ∧ OnlyWrites [.pol, .hbIdx, .cnt, .irHb] s t

/-- ENC_DATA1 and ENC_DATA2: a data bit `b = FWD[16 - ceil(i/2)]` is `!b` in its first half and `b` in its second
(R102, R103). -/
def Obligations.DataBitHalves : Prop :=
  ∀ (i : BitVec 6) (s : State), s.Legal → s.irHb = true → s.state = stSending → s.hbIdx = i → 1 ≤ i.toNat →
    i.toNat ≤ 32 →
    (i.toNat % 2 = 1 →
      ∃ t, exec (.encData1 i) s = .next t ∧ t.pol = !(s.fwd.getLsbD (16 - (i.toNat + 1) / 2)) ∧
        t.hbIdx.toNat = i.toNat + 1 ∧ t.cnt = 0 ∧ t.irHb = false ∧ t.result = s.result ∧
        OnlyWrites [.pol, .hbIdx, .cnt, .irHb] s t) ∧
      (i.toNat % 2 = 0 →
        ∃ t, exec (.encData2 i) s = .next t ∧ t.pol = s.fwd.getLsbD (16 - i.toNat / 2) ∧
          t.hbIdx.toNat = i.toNat + 1 ∧ t.cnt = 0 ∧ t.irHb = false ∧ t.result = s.result ∧
          OnlyWrites [.pol, .hbIdx, .cnt, .irHb] s t)

/-- ENC_STOP and ENC_SETTLE: POL 1 for the eleven slots 33 to 43 (R104, R105). -/
def Obligations.StopAndSettleDriveOne : Prop :=
  ∀ s : State, s.Legal → s.irHb = true → s.state = stSending →
    (s.hbIdx = 33 →
      ∃ t, exec .encStop s = .next t ∧ t.pol = true ∧ t.hbIdx = 34 ∧ t.cnt = 0 ∧ t.irHb = false ∧
        t.result = s.result ∧ OnlyWrites [.pol, .hbIdx, .cnt, .irHb] s t) ∧
      (34 ≤ s.hbIdx.toNat → s.hbIdx.toNat ≤ 43 →
        ∃ t, exec (.encSettle s.hbIdx) s = .next t ∧ t.pol = true ∧ t.hbIdx.toNat = s.hbIdx.toNat + 1 ∧ t.cnt = 0 ∧
          t.irHb = false ∧ t.result = s.result ∧ OnlyWrites [.pol, .hbIdx, .cnt, .irHb] s t)

/-- ENC_TURN: reception begins; the line is sampled, the watchdog is armed, capture is enabled and the stop match is
not (R106). -/
def Obligations.TurnaroundStartsReception : Prop :=
  ∀ s : State, s.Legal → s.irHb = true → s.state = stSending → s.hbIdx = 44 →
    ∃ t, exec .encTurn s = .next t ∧ t.state = stReceiving ∧ t.lastLevel = s.rx ∧ t.hbIdx = 45 ∧ t.cnt = 0 ∧
      t.irHb = false ∧ t.mrHb = s.params.wdT ∧ t.capEn = true ∧ t.stopEn = false ∧ t.result = s.result ∧
      OnlyWrites [.state, .lastLevel, .hbIdx, .cnt, .irHb] s t

/-- ENC_END: the answer is published if the frame completed, the frame is cleared and the core is idle; the index and
ERR are not written (R107, R154). -/
def Obligations.WatchdogEndsTransfer : Prop :=
  ∀ s : State, s.Legal → s.irHb = true → s.state = stReceiving →
    ∃ t, exec .encEnd s = .next t ∧ (s.bfDone = true → t.answer = BitVec.ofNat 8 s.bfAcc ∧ t.answerValid = true) ∧
      (s.bfDone = false → t.answer = s.answer ∧ t.answerValid = false) ∧ t.bfAcc = 0 ∧ t.bfDone = false ∧
      t.prev = false ∧ t.busy = false ∧ t.state = stIdle ∧ t.cnt = 0 ∧ t.irHb = false ∧ t.hbIdx = 45 ∧
      t.run = false ∧ t.mrHb = s.params.te ∧ t.capEn = true ∧ t.stopEn = false ∧ t.result = s.result ∧
      OnlyWrites [.answer, .answerValid, .bfAcc, .bfDone, .prev, .busy, .state, .cnt, .irHb] s t

/-! ### The dispatcher's other entries -/

/-- HB_IDLE, STOP_IGNORE and CAP_IGNORE: an event that finds nothing to do clears its flag and the counter, and
changes nothing else (R155, R156, R157). -/
def Obligations.IdleEventsOnlyClearTheirFlag : Prop :=
  ∀ s : State, s.Legal →
    (s.irHb = true → s.state = stIdle →
      ∃ t, exec .hbIdle s = .next t ∧ t.cnt = 0 ∧ t.irHb = false ∧ t.result = s.result ∧ OnlyWrites [.cnt, .irHb] s t) ∧
      (s.irHb = false → s.irStop = true → ¬(s.state = stReceiving ∧ s.bfAcc ≠ 0 ∧ s.bfDone = false) →
        ∃ t, exec .stopIgnore s = .next t ∧ t.cnt = 0 ∧ t.irStop = false ∧ t.result = s.result ∧
          OnlyWrites [.cnt, .irStop] s t) ∧
      (s.irHb = false → s.irStop = false → s.irCap = true → (s.state ≠ stReceiving ∨ s.bfDone = true) →
        ∃ t, exec .capIgnore s = .next t ∧ t.cnt = 0 ∧ t.irCap = false ∧ t.result = s.result ∧
          OnlyWrites [.cnt, .irCap] s t)

/-- EOF_DETECT: a frame with at least one data bit is complete; a start bit alone is discarded with no error (R145,
R156). -/
def Obligations.EndOfFrameDetection : Prop :=
  ∀ s : State, s.Legal → s.irHb = false → s.irStop = true → s.state = stReceiving → s.bfAcc ≠ 0 → s.bfDone = false →
    ∃ t, exec .eofDetect s = .next t ∧ t.cnt = 0 ∧ t.irStop = false ∧ t.stopEn = false ∧ t.result = s.result ∧
      (2 ≤ s.bfAcc → t.bfDone = true ∧ OnlyWrites [.cnt, .irStop, .bfDone] s t) ∧
      (s.bfAcc = 1 → t.bfAcc = 0 ∧ t.prev = false ∧ OnlyWrites [.cnt, .irStop, .bfAcc, .prev] s t)

/-- CAP_FALL: the captured high interval is recorded (R159). -/
def Obligations.FallingEdgeRecordsHigh : Prop :=
  ∀ s : State, s.Legal → s.irHb = false → s.irStop = false → s.irCap = true → s.rx = false → s.state = stReceiving →
    s.bfDone = false → s.lastLevel = true →
    ∃ t, exec .capFall s = .next t ∧ t.tHigh = s.capVal ∧ t.lastLevel = false ∧ t.cnt = 0 ∧ t.irCap = false ∧
      t.result = s.result ∧ OnlyWrites [.tHigh, .lastLevel, .cnt, .irCap] s t

/-- CAP_SEED: the first rising edge seeds the frame with the start bit; nothing is classified (R144, R160). -/
def Obligations.FirstRisingEdgeSeeds : Prop :=
  ∀ s : State, s.Legal → s.irHb = false → s.irStop = false → s.irCap = true → s.rx = true → s.state = stReceiving →
    s.bfAcc = 0 → s.bfDone = false → s.lastLevel = false →
    ∃ t, exec .capSeed s = .next t ∧ t.tLow = s.capVal ∧ t.lastLevel = true ∧ t.bfAcc = 1 ∧ t.prev = true ∧ t.cnt = 0 ∧
      t.irCap = false ∧ t.result = s.result ∧ OnlyWrites [.tLow, .lastLevel, .bfAcc, .prev, .cnt, .irCap] s t

/-- CAP_DECODE: the low interval is recorded, and then the row runs that PREV, the recorded high interval and the new
low interval select (R130, R161). -/
def Obligations.RisingEdgeDecodes : Prop :=
  ∀ s : State, s.Legal → s.irHb = false → s.irStop = false → s.irCap = true → s.rx = true → s.state = stReceiving →
    s.bfAcc ≠ 0 → s.bfDone = false → s.lastLevel = false →
    ∃ t, exec .capDecode s = .next t ∧
      exec (selectRow s.prev (classify s.params s.tHigh) (classify s.params s.capVal))
        { s with cnt := 0, irCap := false, tLow := s.capVal, lastLevel := true } = .next t ∧
      t.tLow = s.capVal ∧ t.lastLevel = true ∧ t.cnt = 0 ∧ t.irCap = false ∧ t.result = s.result ∧
      OnlyWrites [.tLow, .lastLevel, .cnt, .irCap, .bfAcc, .prev, .err] s t

/-- CAP_ORDER: two edges of one direction empty the frame and record ERR_ORDER; no interval is written (R158,
R204). -/
def Obligations.AlternationViolationIsAnError : Prop :=
  ∀ s : State, s.Legal → s.irHb = false → s.irStop = false → s.irCap = true → s.state = stReceiving →
    s.bfDone = false → s.rx = s.lastLevel →
    ∃ t, exec .capOrder s = .next t ∧ t.bfAcc = 0 ∧ t.prev = false ∧ t.err = 4 ∧ t.lastLevel = s.rx ∧ t.cnt = 0 ∧
      t.irCap = false ∧ t.result = s.result ∧ OnlyWrites [.bfAcc, .prev, .err, .lastLevel, .cnt, .irCap] s t

/-! ### The decoder's rows -/

/-- DEC_BAD_HIGH and DEC_BAD_LOW: an INVALID interval empties the frame with its own code, the high one first (R133,
R134, R135). -/
def Obligations.BadIntervalsAreErrors : Prop :=
  ∀ s : State, s.Legal → s.state = stReceiving → s.bfAcc ≠ 0 → s.bfDone = false →
    (classify s.params s.tHigh = .invalid →
      ∃ t, exec (.decBadHigh s.prev (classify s.params s.tLow)) s = .next t ∧ t.bfAcc = 0 ∧ t.prev = false ∧
        t.err = 2 ∧ t.result = s.result ∧ OnlyWrites [.bfAcc, .prev, .err] s t) ∧
      (classify s.params s.tHigh ≠ .invalid → classify s.params s.tLow = .invalid →
        ∃ t, exec (.decBadLow s.prev (classify s.params s.tHigh)) s = .next t ∧ t.bfAcc = 0 ∧ t.prev = false ∧
          t.err = 1 ∧ t.result = s.result ∧ OnlyWrites [.bfAcc, .prev, .err] s t)

/-- DEC_0SL, DEC_0LL and DEC_1LS: the three ERROR rows empty the frame with ERR_PROTOCOL (R137, R139, R142, R203). -/
def Obligations.ProtocolErrorRows : Prop :=
  ∀ s : State, s.Legal → s.state = stReceiving → s.bfAcc ≠ 0 → s.bfDone = false → ∀ i,
    ((i = .dec0SL ∧ s.prev = false ∧ classify s.params s.tHigh = .long ∧ classify s.params s.tLow = .short) ∨
      (i = .dec0LL ∧ s.prev = false ∧ classify s.params s.tHigh = .long ∧ classify s.params s.tLow = .long) ∨
      (i = .dec1LS ∧ s.prev = true ∧ classify s.params s.tHigh = .short ∧ classify s.params s.tLow = .long)) →
    ∃ t, exec i s = .next t ∧ t.bfAcc = 0 ∧ t.prev = false ∧ t.err = 3 ∧ t.result = s.result ∧
      OnlyWrites [.bfAcc, .prev, .err] s t

/-- DEC_0SS, DEC_1SS and DEC_1SL: one bit is shifted in at bit 0, and PREV is that bit (R131, R136, R140, R141). -/
def Obligations.OneBitRows : Prop :=
  ∀ s : State, s.Legal → s.state = stReceiving → s.bfAcc ≠ 0 → s.bfDone = false →
    (s.prev = false → classify s.params s.tHigh = .short → classify s.params s.tLow = .short →
      ∃ t, exec .dec0SS s = .next t ∧ t.bfAcc = (2 * s.bfAcc) % 2 ^ s.params.bfW ∧ t.prev = false ∧
        t.result = s.result ∧ OnlyWrites [.bfAcc] s t) ∧
      (s.prev = true → classify s.params s.tHigh = .short → classify s.params s.tLow = .short →
        ∃ t, exec .dec1SS s = .next t ∧ t.bfAcc = (2 * s.bfAcc + 1) % 2 ^ s.params.bfW ∧ t.prev = true ∧
          t.result = s.result ∧ OnlyWrites [.bfAcc] s t) ∧
      (s.prev = true → classify s.params s.tHigh = .long → classify s.params s.tLow = .short →
        ∃ t, exec .dec1SL s = .next t ∧ t.bfAcc = (2 * s.bfAcc) % 2 ^ s.params.bfW ∧ t.prev = false ∧
          t.result = s.result ∧ OnlyWrites [.bfAcc, .prev] s t)

/-- DEC_0LS and DEC_1LL: a 0 and then a 1 are shifted in, and PREV is 1 (R131, R138, R143). -/
def Obligations.TwoBitRows : Prop :=
  ∀ s : State, s.Legal → s.state = stReceiving → s.bfAcc ≠ 0 → s.bfDone = false → ∀ i,
    ((i = .dec0LS ∧ s.prev = false ∧ classify s.params s.tHigh = .short ∧ classify s.params s.tLow = .long) ∨
      (i = .dec1LL ∧ s.prev = true ∧ classify s.params s.tHigh = .long ∧ classify s.params s.tLow = .long)) →
    ∃ t, exec i s = .next t ∧ t.bfAcc = (4 * s.bfAcc + 1) % 2 ^ s.params.bfW ∧ t.prev = true ∧
      t.result = s.result ∧ OnlyWrites [.bfAcc, .prev] s t

/-! ### The classifier and the encoder's function -/

/-- CLASSIFY as an operation: the class is its result, and no state is written (R120). The class as the result of an
operation of its own is log 7 and log 8, that it completes in every state, broken ones too, is log 10, and that it takes
any 32-bit interval whatever TIMER_W is log 21. -/
def Obligations.ClassifyReturnsClass : Prop :=
  ∀ (k : BitVec 32) (s : State),
    ∃ t, exec (.classify k) s = .next t ∧
      t.result = .cls (if s.params.minTe < k.toNat ∧ k.toNat < s.params.maxTe then .short
        else if s.params.min2Te < k.toNat ∧ k.toNat < s.params.max2Te then .long else .invalid) ∧
      OnlyWrites [] s t

/-- Under every well-formed parameter set the windows are open and disjoint: each bound is INVALID, the values just
inside are SHORT or LONG, and so are no others (R121, R122). -/
def Obligations.ClassifierWindows : Prop :=
  ∀ p : Params, p.WellFormed →
    classify p p.minTe = .invalid ∧ classify p p.maxTe = .invalid ∧ classify p p.min2Te = .invalid ∧
      classify p p.max2Te = .invalid ∧ classify p (p.minTe - 1) = .invalid ∧ classify p (p.max2Te + 1) = .invalid ∧
      (p.minTe + 1 < p.maxTe → classify p (p.minTe + 1) = .short ∧ classify p (p.maxTe - 1) = .short) ∧
      (p.min2Te + 1 < p.max2Te → classify p (p.min2Te + 1) = .long ∧ classify p (p.max2Te - 1) = .long) ∧
      (∀ t, p.maxTe ≤ t → t ≤ p.min2Te → classify p t = .invalid) ∧ ∀ t, p.max2Te ≤ t → classify p t = .invalid

/-- The encoder's polarities of slots 1 to 32 are the cells of the frame's bits, most significant first; slot 0 and
slots 33 to 43 are 1 (R71, R72, R73, R100). -/
def Obligations.EncoderPolaritiesAreCells : Prop :=
  ∀ f : BitVec 16,
    (List.range 32).map (fun k => encPol f (k + 1)) = halves (frameBits f) ∧ encPol f 0 = true ∧
      ∀ i, 33 ≤ i → i ≤ 43 → encPol f i = true

/-- The pseudo-operations are single STARTs whose frame is the selector byte over the data byte (R87). -/
def Obligations.PseudoOperationsAreStarts : Prop :=
  ∀ (q : CommandParams) (a : BitVec 6) (c : BitVec 8),
    decode (.cmd25 (packCmd false (broadcast q c))) = .ok (.start (q.selBcast ++ c)) ∧
      decode (.cmd25 (packCmd false (turnOn q a))) = .ok (.start (((a.setWidth 8 <<< 1) ||| 1) ++ q.opcOn)) ∧
      decode (.cmd25 (packCmd false (turnOff q a))) = .ok (.start (((a.setWidth 8 <<< 1) ||| 1) ++ q.opcOff)) ∧
      decode (.cmd25 (packCmd false (queryDeviceType q a))) =
        .ok (.start (((a.setWidth 8 <<< 1) ||| 1) ++ q.opcQdt)) ∧
      decode (.cmd25 (packCmd false (queryShortAddress q))) = .ok (.start (q.selQsa ++ 0#8))

/-! ### Timing under the reference environment -/

/-- From an accepted START on, TX is the waveform of the frame at every instant before the turnaround (R110), on any line
and with any STARTs and READ_STATUSes on the way: after `n` ticks the index is `n / TE` and the counter `n % TE`. The
trace `es` holds the first of these events; once it is empty the line holds its level for `m` ticks more (log 3). -/
def Obligations.TransmissionFollowsWaveform : Prop :=
  ∀ s : State, s.params.WellFormed → s.Legal → s.state = stSending → s.hbIdx = 0 → s.cnt = 0 → s.pol = false →
    s.irq = false → ∀ es m n, s.env = es → undisturbed es = true → n = ticksIn es + m →
    n < 45 * s.params.te →
    ∃ t, runSteps (es.length + m + n / s.params.te) s = .next t ∧ t.state = stSending ∧
      t.hbIdx.toNat = n / s.params.te ∧ t.cnt = n % s.params.te ∧ t.tx = waveform s.params s.fwd n ∧
      t.fwd = s.fwd ∧ t.env = []

/-- Reception starts 45 half-bit periods after an accepted START, with the line sampled (R106, R110, R240), on any line
and with any STARTs and READ_STATUSes on the way. The trace `es` holds the first of these events; once it is empty the
line holds its level for `m` ticks more (log 3). The level sampled is that of the last tick. -/
def Obligations.ReceptionStartsOnTime : Prop :=
  ∀ s : State, s.params.WellFormed → s.Legal → s.state = stSending → s.hbIdx = 0 → s.cnt = 0 → s.irq = false →
    ∀ es m, s.env = es → undisturbed es = true → ticksIn es + m = 45 * s.params.te →
    ∃ t, runSteps (es.length + m + 45) s = .next t ∧ t.state = stReceiving ∧ t.hbIdx = 45 ∧ t.cnt = 0 ∧
      t.tx = true ∧ t.rx = levelAfter s.rx es ∧ t.lastLevel = t.prevRx ∧ (0 < m → t.lastLevel = t.rx) ∧
      t.irq = false ∧ t.fwd = s.fwd ∧ t.env = []

/-- A line that goes quiet in reception with no frame to complete: the watchdog ends the transfer `WD_T` after the last
entry (R107, R222). The quiet line is the empty trace, on which the line holds its level (log 3). -/
def Obligations.QuietLineEndsTransfer : Prop :=
  ∀ s : State, s.params.WellFormed → s.Legal → s.state = stReceiving → (s.bfAcc = 0 ∨ s.bfDone = true) →
    s.irq = false → s.env = [] → s.rx = s.prevRx → s.cnt < s.params.wdT →
    ∃ t, runSteps (s.params.wdT - s.cnt + 1) s = .next t ∧ t.state = stIdle ∧ t.busy = false ∧
      t.answerValid = s.bfDone ∧ (s.bfDone = true → t.answer = BitVec.ofNat 8 s.bfAcc) ∧ t.err = s.err

/-- A line that goes quiet with a frame pending: the stop detector judges it `STOP_T` after the last entry, and the
watchdog ends the transfer `WD_T` later, with an answer exactly when a data bit was shifted (R145, R222). The quiet line
is the empty trace (log 3). -/
def Obligations.QuietLineCompletesFrame : Prop :=
  ∀ s : State, s.params.WellFormed → s.Legal → s.state = stReceiving → s.bfAcc ≠ 0 → s.bfDone = false →
    s.irq = false → s.env = [] → s.rx = s.prevRx → s.cnt < s.params.stopT →
    ∃ t, runSteps (s.params.stopT - s.cnt + 1 + (s.params.wdT + 1)) s = .next t ∧ t.state = stIdle ∧ t.busy = false ∧
      t.answerValid = decide (2 ≤ s.bfAcc) ∧ (2 ≤ s.bfAcc → t.answer = BitVec.ofNat 8 s.bfAcc) ∧ t.err = s.err

/-- The value captured at an edge is the number of ticks since the last entry (R216, R217). -/
def Obligations.CapturedValueIsElapsedTicks : Prop :=
  ∀ (s : State) (n : Nat) (v : Level), s.params.WellFormed → s.Legal → s.state = stReceiving → s.irq = false →
    s.cnt = 0 → s.prevRx = v → n + 1 < s.params.stopT →
    s.env = ticks (fun k => if k ≤ n then v else !v) 0 (n + 1) →
    ∃ t, runSteps (n + 1) s = .next t ∧ t.irCap = true ∧ t.capVal = n + 1 ∧ t.rx = !v ∧ t.irHb = false ∧
      t.irStop = false

/-- A transfer on a line that holds its level, from the START on: it ends `45 * TE + WD_T` after it with no reply, no
error and the line at the idle level, whatever the frame (R110, R222, R239; program P1 of 95_test_vectors.md). The line
that holds its level is the empty trace after the START (log 3). -/
def Obligations.SilentTransferHasNoReply : Prop :=
  ∀ (s : State) (f : BitVec 16), s.params.WellFormed → s.Legal → s.busy = false → s.irq = false →
    s.env = [{ first := false, event := .call (cmdWord 0x01 f) }] →
    ∃ t, runSteps (1 + 45 * (s.params.te + 1) + (s.params.wdT + 1)) s = .next t ∧ t.state = stIdle ∧ t.busy = false ∧
      t.answerValid = false ∧ t.answer = 0 ∧ t.err = 0 ∧ t.hbIdx = 45 ∧ t.tx = true ∧ t.fwd = f ∧ t.bfAcc = 0 ∧
      t.cnt = 0 ∧ t.irq = false ∧ t.statusWord = (if s.rx = true then 0x012D0080 else 0x002D0080)

/-! ### Receiving a backward frame -/

/-- A backward frame in the format of R74, of any bits that fit, is decoded with no error: `BF_ACC = 2^n + d` (R75,
R146 (b)). -/
def Obligations.ReplyIsDecoded : Prop :=
  ∀ (s : State) (gap : Nat) (bits : List Bool), s.params.WellFormed → s.Legal → s.state = stReceiving →
    s.bfAcc = 0 → s.bfDone = false → s.lastLevel = true → s.irq = false → classify s.params s.params.te = .short →
    classify s.params (2 * s.params.te) = .long → bits.length < s.params.bfW →
    s.env = replyEvents s.params.te gap bits →
    ∃ t, runSteps (2 * (replyEvents s.params.te gap bits).length) s = .next t ∧
      t.bfAcc = 2 ^ bits.length + bitsValue bits ∧ t.state = stReceiving ∧ t.bfDone = false ∧ t.err = s.err ∧
      t.lastLevel = true ∧ t.irq = false ∧ t.env = []

/-- Round trip: any forward frame, sent back as a reply in the cell convention and followed by the stop match and the
watchdog, is recovered whole in the accumulator, and its low byte is the answer (95_test_vectors E9). -/
def Obligations.LoopbackRecoversFrame : Prop :=
  ∀ (s : State) (gap : Nat) (f : BitVec 16), s.params.WellFormed → s.Legal → s.state = stReceiving →
    s.bfAcc = 0 → s.bfDone = false → s.lastLevel = true → s.irq = false → classify s.params s.params.te = .short →
    classify s.params (2 * s.params.te) = .long →
    s.env = replyEvents s.params.te gap (frameBits f) ++
      [{ first := false, event := .evStop }, { first := false, event := .evHb }] →
    ∃ t u, runSteps (2 * (replyEvents s.params.te gap (frameBits f)).length) s = .next t ∧
      t.bfAcc = 0x10000 + f.toNat ∧ runSteps 4 t = .next u ∧ u.state = stIdle ∧ u.busy = false ∧
      u.answer = f.setWidth 8 ∧ u.answerValid = true ∧ u.err = s.err
end

