-- ==== Sys2Proof/Laws/Decode.lean ====
section
/-! SUPPORT. The selector words the machine forms are read back field by field. -/

namespace Sys2Proof

/-- The bits of a `dsel15` word, field by field from bit 0 up (R88). -/
theorem getLsbD_packDsel (d : Dsel) (k : Nat) :
    (packDsel d).getLsbD k =
      if k < 1 then (BitVec.ofBool d.irHb).getLsbD k
      else if k - 1 < 1 then (BitVec.ofBool d.irStop).getLsbD (k - 1)
      else if k - 1 - 1 < 1 then (BitVec.ofBool d.irCap).getLsbD (k - 1 - 1)
      else if k - 1 - 1 - 1 < 1 then (BitVec.ofBool d.rx).getLsbD (k - 1 - 1 - 1)
      else if k - 1 - 1 - 1 - 1 < 2 then d.state.getLsbD (k - 1 - 1 - 1 - 1)
      else if k - 1 - 1 - 1 - 1 - 2 < 6 then d.hbIdx.getLsbD (k - 1 - 1 - 1 - 1 - 2)
      else if k - 1 - 1 - 1 - 1 - 2 - 6 < 1 then (BitVec.ofBool d.accNz).getLsbD (k - 1 - 1 - 1 - 1 - 2 - 6)
      else if k - 1 - 1 - 1 - 1 - 2 - 6 - 1 < 1 then (BitVec.ofBool d.bfDone).getLsbD (k - 1 - 1 - 1 - 1 - 2 - 6 - 1)
      else (BitVec.ofBool d.lastLevel).getLsbD (k - 1 - 1 - 1 - 1 - 2 - 6 - 1 - 1) := by
  change BitVec.getLsbD (w := 1 + 1 + 1 + 6 + 2 + 1 + 1 + 1 + 1) _ k = _
  unfold packDsel
  simp only [BitVec.getLsbD_append]

@[simp] theorem unpackDsel_packDsel (d : Dsel) : unpackDsel (packDsel d) = d := by
  have hs : (packDsel d).extractLsb' 4 2 = d.state := by
    apply BitVec.eq_of_getLsbD_eq
    intro k hk
    have : k = 0 ∨ k = 1 := by omega
    rcases this with rfl | rfl <;> rw [BitVec.getLsbD_extractLsb', getLsbD_packDsel] <;> simp
  have hi : (packDsel d).extractLsb' 6 6 = d.hbIdx := by
    apply BitVec.eq_of_getLsbD_eq
    intro k hk
    have : k = 0 ∨ k = 1 ∨ k = 2 ∨ k = 3 ∨ k = 4 ∨ k = 5 := by omega
    rcases this with rfl | rfl | rfl | rfl | rfl | rfl <;> rw [BitVec.getLsbD_extractLsb', getLsbD_packDsel] <;> simp
  unfold unpackDsel
  rw [hs, hi]
  simp only [getLsbD_packDsel]
  simp

@[simp] theorem cmdOp_packCmd (b : Bool) (op : BitVec 8) (x : BitVec 16) : cmdOp (packCmd b (cmdWord op x)) = op := by
  apply BitVec.eq_of_getLsbD_eq
  intro k hk
  simp only [cmdOp, packCmd, cmdWord, BitVec.getLsbD_extractLsb', BitVec.getLsbD_append, hk, decide_true, Bool.true_and]
  have h1 : 16 + k < 24 := by omega
  simp [h1]

@[simp] theorem cmdOperand_packCmd (b : Bool) (op : BitVec 8) (x : BitVec 16) :
    cmdOperand (packCmd b (cmdWord op x)) = x := by
  apply BitVec.eq_of_getLsbD_eq
  intro k hk
  simp only [cmdOperand, packCmd, cmdWord, BitVec.getLsbD_extractLsb', BitVec.getLsbD_append, hk, decide_true,
    Bool.true_and]
  have h1 : k < 24 := by omega
  simp [h1, hk]

@[simp] theorem cmdBusy_packCmd (b : Bool) (c : BitVec 24) : cmdBusy (packCmd b c) = b := by
  simp only [cmdBusy, packCmd, BitVec.getLsbD_append]
  simp

/-- A CMD word is its op code above its operand. -/
theorem cmdWord_fields (c : BitVec 24) : c = cmdWord (c.extractLsb' 16 8) (c.extractLsb' 0 16) := by
  apply BitVec.eq_of_getLsbD_eq
  intro k hk
  simp only [cmdWord, BitVec.getLsbD_append, BitVec.getLsbD_extractLsb']
  by_cases h : k < 16
  · simp [h]
  · have h1 : k - 16 < 8 := by omega
    have h2 : 16 + (k - 16) = k := by omega
    simp [h, h1, h2]

@[simp] theorem classOfCode_code (c : IntervalClass) : classOfCode c.code = some c := by cases c <;> decide

theorem decodeDkey_packDkey (p : Bool) (h l : IntervalClass) : decodeDkey (packDkey p h l) = .ok (selectRow p h l) := by
  cases p <;> cases h <;> cases l <;> decide

end Sys2Proof

namespace Sys2Proof.Machine

/-- The operation an entry serves is read from the fields of the state. -/
@[simp] theorem decode_dselWord (s : State) : decode (.dsel15 s.dselWord) = selectEntry s.dsel := by
  simp [decode, State.dselWord]

/-- The row a decode step takes. -/
@[simp] theorem decode_dkey (s : State) :
    decode (.dkey5 s.dkey) = .ok (selectRow s.prev s.highClass s.lowClass) := by
  simp [decode, State.dkey, decodeDkey_packDkey]

end Sys2Proof.Machine
end

