-- ==== Sys2Proof/Laws/Environment.lean ====
section
/-! SUPPORT. The small lemmas of traces: ticks, the level they leave, and when nothing in them disturbs a transfer. -/

namespace Sys2Proof.Machine

variable {b : Bool} {v w : Level} {e : Stimulus} {es fs : List Stimulus} {cmd : BitVec 24}

@[simp] theorem ticksIn_nil : ticksIn [] = 0 := rfl
@[simp] theorem ticksIn_tick : ticksIn ({ first := b, event := .tick v } :: es) = ticksIn es + 1 := by
  simp [ticksIn, Nat.add_comm]
@[simp] theorem ticksIn_line : ticksIn ({ first := b, event := .line v } :: es) = ticksIn es := by simp [ticksIn]
@[simp] theorem ticksIn_call : ticksIn ({ first := b, event := .call cmd } :: es) = ticksIn es := by simp [ticksIn]

theorem ticksIn_append : ticksIn (es ++ fs) = ticksIn es + ticksIn fs := by
  induction es with
  | nil => simp
  | cons e es ih => simp only [List.cons_append, ticksIn, ih]; omega

@[simp] theorem levelAfter_nil : levelAfter v [] = v := rfl
@[simp] theorem levelAfter_tick : levelAfter v ({ first := b, event := .tick w } :: es) = levelAfter w es := rfl
@[simp] theorem levelAfter_line : levelAfter v ({ first := b, event := .line w } :: es) = levelAfter w es := rfl
@[simp] theorem levelAfter_call : levelAfter v ({ first := b, event := .call cmd } :: es) = levelAfter v es := rfl

theorem levelAfter_append : levelAfter v (es ++ fs) = levelAfter (levelAfter v es) fs := by
  induction es generalizing v with
  | nil => rfl
  | cons e es ih => exact ih

@[simp] theorem undisturbed_nil : undisturbed [] = true := rfl
@[simp] theorem undisturbed_cons :
    undisturbed (e :: es) = true ↔ e.first = false ∧ e.event.undisturbing = true ∧ undisturbed es = true := by
  simp [undisturbed, and_assoc]

/-- An undisturbing event is a tick, a change of the line, or a START or READ_STATUS. -/
theorem Event.undisturbing_iff {e : Event} :
    e.undisturbing = true ↔
      (∃ v, e = .tick v) ∨ (∃ v, e = .line v) ∨
        ∃ cmd, e = .call cmd ∧ (cmd.extractLsb' 16 8 = 0x01 ∨ cmd.extractLsb' 16 8 = 0x02) := by
  cases e <;> simp [Event.undisturbing]

/-- The trace of a line holds one tick for each of its instants. -/
theorem ticksIn_ticks (line : Nat → Level) (t0 n : Nat) : ticksIn (ticks line t0 n) = n := by
  induction n with
  | zero => rfl
  | succ n ih => rw [ticks, List.range_succ, List.map_append, ticksIn_append]; rw [ticks] at ih; simp [ih]

end Sys2Proof.Machine
end

