-- ==== Sys2Proof/Laws/Ops.lean ====
section
/-! SUPPORT. What each shared operation can answer, once; then each meaning as an equivalence: when it answers a next
state, and which. -/

namespace Sys2Proof.Machine

variable {s t : State}

/-! ### Shared operations -/

theorem onNext_eq_next {o : Out} {f : State → State} : onNext o f = .next t ↔ ∃ u, o = .next u ∧ t = f u := by
  cases o <;> simp [onNext, eq_comm]

theorem guarded_eq_next {sel : Prop} [Decidable sel] {k : Out} :
    guarded s sel k = .next t ↔ s.Legal ∧ sel ∧ k = .next t := by
  unfold guarded
  by_cases h : s.Legal
  · by_cases g : sel
    · rw [if_pos h, if_pos g]; exact ⟨fun e => ⟨h, g, e⟩, fun e => e.2.2⟩
    · rw [if_pos h, if_neg g]; exact ⟨fun e => by simp at e, fun e => absurd e.2.1 g⟩
  · rw [if_neg h]; exact ⟨fun e => by simp at e, fun e => absurd e.1 h⟩

/-- The guarded form of every meaning that writes one state. -/
theorem guarded_next_eq_next {sel : Prop} [Decidable sel] {u : State} :
    guarded s sel (.next u) = .next t ↔ s.Legal ∧ sel ∧ t = u := by
  rw [guarded_eq_next, Host.Outcome.next.injEq]
  exact ⟨fun h => ⟨h.1, h.2.1, h.2.2.symm⟩, fun h => ⟨h.1, h.2.1, h.2.2.symm⟩⟩

/-- A guarded operation runs where its two conditions hold. -/
theorem guarded_pos {sel : Prop} [Decidable sel] {k : Out} (h : s.Legal) (g : sel) : guarded s sel k = k := by
  rw [guarded, if_pos h, if_pos g]

theorem decodeRow_eq_next {p : Bool} {h l : IntervalClass} {u : State} :
    decodeRow s p h l u = .next t ↔ s.Legal ∧ (s.InFrame ∧ s.prev = p ∧ s.highClass = h ∧ s.lowClass = l) ∧ t = u := by
  rw [decodeRow, guarded_next_eq_next]

theorem rejected_ne_next (e : DecodeError) : rejected e ≠ .next t := by cases e <;> simp [rejected]

theorem runSelected_eq_next {w : SelWord} :
    runSelected w s = .next t ↔ ∃ i, decode w = .ok i ∧ exec i s = .next t := by
  unfold runSelected
  cases h : decode w with
  | ok i => simp
  | error e => simp [rejected_ne_next]

/-! ### The decode step -/

/-- DECODE_STEP is the execution of the row its key selects (R130). -/
theorem decodeStep_eq_exec (s : State) : decodeStep s = exec (selectRow s.prev s.highClass s.lowClass) s := by
  unfold decodeStep
  cases s.highClass <;> cases s.lowClass <;> cases s.prev <;> rfl

/-! ### Caller operations -/

theorem execStart_eq_next {f : BitVec 16} :
    execStart f s = .next t ↔ s.Legal ∧ s.busy = false ∧ t = (s.startTransfer f).answerWith (.start true) := guarded_next_eq_next

theorem execStartRej_eq_next {f : BitVec 16} :
    execStartRej f s = .next t ↔ s.Legal ∧ s.busy = true ∧ t = s.answerWith (.start false) := guarded_next_eq_next

theorem execReadStatus_eq_next {x : BitVec 16} :
    execReadStatus x s = .next t ↔ s.Legal ∧ t = s.answerWith (.status s.statusWord) := by
  rw [execReadStatus, guarded_next_eq_next, true_and]

theorem execReset_eq_next {x : BitVec 16} :
    execReset x s = .next t ↔ t = s.resetAll := by
  rw [execReset, Host.Outcome.next.injEq]; exact eq_comm

theorem execClassify_eq_next {k : BitVec 32} :
    execClassify k s = .next t ↔ t = s.answerWith (.cls (classify s.params k.toNat)) := by
  rw [execClassify, Host.Outcome.next.injEq]; exact eq_comm

/-! ### Half-bit match entries -/

theorem execEncStart2_eq_next :
    execEncStart2 s = .next t ↔
      s.Legal ∧ (s.EvHb ∧ s.state = stSending ∧ s.hbIdx = 0) ∧ t = s.enterHb.emit true := guarded_next_eq_next

theorem execEncData1_eq_next {i : BitVec 6} :
    execEncData1 i s = .next t ↔
      s.Legal ∧ (s.EvHb ∧ s.state = stSending ∧ s.hbIdx = i ∧ i.toNat % 2 = 1 ∧ i.toNat ≤ 31) ∧
        t = s.enterHb.emit (!s.fwd.getLsbD (16 - (i.toNat + 1) / 2)) := guarded_next_eq_next

theorem execEncData2_eq_next {i : BitVec 6} :
    execEncData2 i s = .next t ↔
      s.Legal ∧ (s.EvHb ∧ s.state = stSending ∧ s.hbIdx = i ∧ i.toNat % 2 = 0 ∧ 2 ≤ i.toNat ∧ i.toNat ≤ 32) ∧
        t = s.enterHb.emit (s.fwd.getLsbD (16 - i.toNat / 2)) := guarded_next_eq_next

theorem execEncStop_eq_next :
    execEncStop s = .next t ↔
      s.Legal ∧ (s.EvHb ∧ s.state = stSending ∧ s.hbIdx = 33) ∧ t = s.enterHb.emit true := guarded_next_eq_next

theorem execEncSettle_eq_next {i : BitVec 6} :
    execEncSettle i s = .next t ↔
      s.Legal ∧ (s.EvHb ∧ s.state = stSending ∧ s.hbIdx = i ∧ 34 ≤ i.toNat ∧ i.toNat ≤ 43) ∧
        t = s.enterHb.emit true := guarded_next_eq_next

theorem execEncTurn_eq_next :
    execEncTurn s = .next t ↔
      s.Legal ∧ (s.EvHb ∧ s.state = stSending ∧ s.hbIdx = 44) ∧
        t = s.enterHb.turnAround := guarded_next_eq_next

theorem execEncEnd_eq_next :
    execEncEnd s = .next t ↔ s.Legal ∧ (s.EvHb ∧ s.state = stReceiving) ∧ t = s.enterHb.endTransfer := guarded_next_eq_next

theorem execHbIdle_eq_next :
    execHbIdle s = .next t ↔ s.Legal ∧ (s.EvHb ∧ s.state = stIdle) ∧ t = s.enterHb := guarded_next_eq_next

/-! ### Stop match entries -/

theorem execEofDetect_eq_next :
    execEofDetect s = .next t ↔
      s.Legal ∧ (s.EvStop ∧ s.InFrame) ∧
        t = if 2 ≤ s.bfAcc then s.enterStop.markDone else s.enterStop.clearBf := guarded_next_eq_next

theorem execStopIgnore_eq_next :
    execStopIgnore s = .next t ↔ s.Legal ∧ (s.EvStop ∧ ¬ s.InFrame) ∧ t = s.enterStop := guarded_next_eq_next

/-! ### Capture entries -/

theorem execCapFall_eq_next :
    execCapFall s = .next t ↔
      s.Legal ∧ (s.EvCap ∧ s.rx = false ∧ s.state = stReceiving ∧ s.bfDone = false ∧ s.lastLevel = true) ∧
        t = s.enterCap.recordHigh := guarded_next_eq_next

theorem execCapSeed_eq_next :
    execCapSeed s = .next t ↔
      s.Legal ∧
        (s.EvCap ∧ s.rx = true ∧ s.state = stReceiving ∧ s.bfAcc = 0 ∧ s.bfDone = false ∧ s.lastLevel = false) ∧
        t = s.enterCap.recordLow.seed := guarded_next_eq_next

theorem execCapDecode_eq_next :
    execCapDecode s = .next t ↔
      s.Legal ∧ (s.EvCap ∧ s.rx = true ∧ s.InFrame ∧ s.lastLevel = false) ∧
        decodeStep s.enterCap.recordLow = .next t := by
  rw [execCapDecode, guarded_eq_next]

theorem execCapOrder_eq_next :
    execCapOrder s = .next t ↔
      s.Legal ∧ (s.EvCap ∧ s.state = stReceiving ∧ s.bfDone = false ∧ s.rx = s.lastLevel) ∧
        t = (s.enterCap.recordError errOrder).sampleLevel := guarded_next_eq_next

theorem execCapIgnore_eq_next :
    execCapIgnore s = .next t ↔
      s.Legal ∧ (s.EvCap ∧ (s.state ≠ stReceiving ∨ s.bfDone = true)) ∧ t = s.enterCap := guarded_next_eq_next

end Sys2Proof.Machine
end

