-- ==== Sys2Proof/Laws/State.lean ====
section
/-! SUPPORT. One lemma per field per update of the state, so that no later proof unfolds a record update; then the
timer's operations, field by field. -/

namespace Sys2Proof.Machine

/-! ### the half-bit entry -/

@[simp] theorem State.enterHb_params (s : State) : (s.enterHb).params = s.params := rfl
@[simp] theorem State.enterHb_state (s : State) : (s.enterHb).state = s.state := rfl
@[simp] theorem State.enterHb_busy (s : State) : (s.enterHb).busy = s.busy := rfl
@[simp] theorem State.enterHb_hbIdx (s : State) : (s.enterHb).hbIdx = s.hbIdx := rfl
@[simp] theorem State.enterHb_pol (s : State) : (s.enterHb).pol = s.pol := rfl
@[simp] theorem State.enterHb_fwd (s : State) : (s.enterHb).fwd = s.fwd := rfl
@[simp] theorem State.enterHb_bfAcc (s : State) : (s.enterHb).bfAcc = s.bfAcc := rfl
@[simp] theorem State.enterHb_bfDone (s : State) : (s.enterHb).bfDone = s.bfDone := rfl
@[simp] theorem State.enterHb_prev (s : State) : (s.enterHb).prev = s.prev := rfl
@[simp] theorem State.enterHb_tHigh (s : State) : (s.enterHb).tHigh = s.tHigh := rfl
@[simp] theorem State.enterHb_tLow (s : State) : (s.enterHb).tLow = s.tLow := rfl
@[simp] theorem State.enterHb_lastLevel (s : State) : (s.enterHb).lastLevel = s.lastLevel := rfl
@[simp] theorem State.enterHb_answer (s : State) : (s.enterHb).answer = s.answer := rfl
@[simp] theorem State.enterHb_answerValid (s : State) : (s.enterHb).answerValid = s.answerValid := rfl
@[simp] theorem State.enterHb_err (s : State) : (s.enterHb).err = s.err := rfl
@[simp] theorem State.enterHb_cnt (s : State) : (s.enterHb).cnt = 0 := rfl
@[simp] theorem State.enterHb_irHb (s : State) : (s.enterHb).irHb = false := rfl
@[simp] theorem State.enterHb_irStop (s : State) : (s.enterHb).irStop = s.irStop := rfl
@[simp] theorem State.enterHb_irCap (s : State) : (s.enterHb).irCap = s.irCap := rfl
@[simp] theorem State.enterHb_capVal (s : State) : (s.enterHb).capVal = s.capVal := rfl
@[simp] theorem State.enterHb_rx (s : State) : (s.enterHb).rx = s.rx := rfl
@[simp] theorem State.enterHb_prevRx (s : State) : (s.enterHb).prevRx = s.prevRx := rfl
@[simp] theorem State.enterHb_result (s : State) : (s.enterHb).result = s.result := rfl
@[simp] theorem State.enterHb_env (s : State) : (s.enterHb).env = s.env := rfl
@[simp] theorem State.enterHb_chained (s : State) : (s.enterHb).chained = s.chained := rfl

/-! ### the stop entry -/

@[simp] theorem State.enterStop_params (s : State) : (s.enterStop).params = s.params := rfl
@[simp] theorem State.enterStop_state (s : State) : (s.enterStop).state = s.state := rfl
@[simp] theorem State.enterStop_busy (s : State) : (s.enterStop).busy = s.busy := rfl
@[simp] theorem State.enterStop_hbIdx (s : State) : (s.enterStop).hbIdx = s.hbIdx := rfl
@[simp] theorem State.enterStop_pol (s : State) : (s.enterStop).pol = s.pol := rfl
@[simp] theorem State.enterStop_fwd (s : State) : (s.enterStop).fwd = s.fwd := rfl
@[simp] theorem State.enterStop_bfAcc (s : State) : (s.enterStop).bfAcc = s.bfAcc := rfl
@[simp] theorem State.enterStop_bfDone (s : State) : (s.enterStop).bfDone = s.bfDone := rfl
@[simp] theorem State.enterStop_prev (s : State) : (s.enterStop).prev = s.prev := rfl
@[simp] theorem State.enterStop_tHigh (s : State) : (s.enterStop).tHigh = s.tHigh := rfl
@[simp] theorem State.enterStop_tLow (s : State) : (s.enterStop).tLow = s.tLow := rfl
@[simp] theorem State.enterStop_lastLevel (s : State) : (s.enterStop).lastLevel = s.lastLevel := rfl
@[simp] theorem State.enterStop_answer (s : State) : (s.enterStop).answer = s.answer := rfl
@[simp] theorem State.enterStop_answerValid (s : State) : (s.enterStop).answerValid = s.answerValid := rfl
@[simp] theorem State.enterStop_err (s : State) : (s.enterStop).err = s.err := rfl
@[simp] theorem State.enterStop_cnt (s : State) : (s.enterStop).cnt = 0 := rfl
@[simp] theorem State.enterStop_irHb (s : State) : (s.enterStop).irHb = s.irHb := rfl
@[simp] theorem State.enterStop_irStop (s : State) : (s.enterStop).irStop = false := rfl
@[simp] theorem State.enterStop_irCap (s : State) : (s.enterStop).irCap = s.irCap := rfl
@[simp] theorem State.enterStop_capVal (s : State) : (s.enterStop).capVal = s.capVal := rfl
@[simp] theorem State.enterStop_rx (s : State) : (s.enterStop).rx = s.rx := rfl
@[simp] theorem State.enterStop_prevRx (s : State) : (s.enterStop).prevRx = s.prevRx := rfl
@[simp] theorem State.enterStop_result (s : State) : (s.enterStop).result = s.result := rfl
@[simp] theorem State.enterStop_env (s : State) : (s.enterStop).env = s.env := rfl
@[simp] theorem State.enterStop_chained (s : State) : (s.enterStop).chained = s.chained := rfl

/-! ### the capture entry -/

@[simp] theorem State.enterCap_params (s : State) : (s.enterCap).params = s.params := rfl
@[simp] theorem State.enterCap_state (s : State) : (s.enterCap).state = s.state := rfl
@[simp] theorem State.enterCap_busy (s : State) : (s.enterCap).busy = s.busy := rfl
@[simp] theorem State.enterCap_hbIdx (s : State) : (s.enterCap).hbIdx = s.hbIdx := rfl
@[simp] theorem State.enterCap_pol (s : State) : (s.enterCap).pol = s.pol := rfl
@[simp] theorem State.enterCap_fwd (s : State) : (s.enterCap).fwd = s.fwd := rfl
@[simp] theorem State.enterCap_bfAcc (s : State) : (s.enterCap).bfAcc = s.bfAcc := rfl
@[simp] theorem State.enterCap_bfDone (s : State) : (s.enterCap).bfDone = s.bfDone := rfl
@[simp] theorem State.enterCap_prev (s : State) : (s.enterCap).prev = s.prev := rfl
@[simp] theorem State.enterCap_tHigh (s : State) : (s.enterCap).tHigh = s.tHigh := rfl
@[simp] theorem State.enterCap_tLow (s : State) : (s.enterCap).tLow = s.tLow := rfl
@[simp] theorem State.enterCap_lastLevel (s : State) : (s.enterCap).lastLevel = s.lastLevel := rfl
@[simp] theorem State.enterCap_answer (s : State) : (s.enterCap).answer = s.answer := rfl
@[simp] theorem State.enterCap_answerValid (s : State) : (s.enterCap).answerValid = s.answerValid := rfl
@[simp] theorem State.enterCap_err (s : State) : (s.enterCap).err = s.err := rfl
@[simp] theorem State.enterCap_cnt (s : State) : (s.enterCap).cnt = 0 := rfl
@[simp] theorem State.enterCap_irHb (s : State) : (s.enterCap).irHb = s.irHb := rfl
@[simp] theorem State.enterCap_irStop (s : State) : (s.enterCap).irStop = s.irStop := rfl
@[simp] theorem State.enterCap_irCap (s : State) : (s.enterCap).irCap = false := rfl
@[simp] theorem State.enterCap_capVal (s : State) : (s.enterCap).capVal = s.capVal := rfl
@[simp] theorem State.enterCap_rx (s : State) : (s.enterCap).rx = s.rx := rfl
@[simp] theorem State.enterCap_prevRx (s : State) : (s.enterCap).prevRx = s.prevRx := rfl
@[simp] theorem State.enterCap_result (s : State) : (s.enterCap).result = s.result := rfl
@[simp] theorem State.enterCap_env (s : State) : (s.enterCap).env = s.env := rfl
@[simp] theorem State.enterCap_chained (s : State) : (s.enterCap).chained = s.chained := rfl

/-! ### one polarity of the encoder -/

@[simp] theorem State.emit_params (s : State) (v : Level) : (s.emit v).params = s.params := rfl
@[simp] theorem State.emit_state (s : State) (v : Level) : (s.emit v).state = s.state := rfl
@[simp] theorem State.emit_busy (s : State) (v : Level) : (s.emit v).busy = s.busy := rfl
@[simp] theorem State.emit_hbIdx (s : State) (v : Level) : (s.emit v).hbIdx = s.hbIdx + 1 := rfl
@[simp] theorem State.emit_pol (s : State) (v : Level) : (s.emit v).pol = v := rfl
@[simp] theorem State.emit_fwd (s : State) (v : Level) : (s.emit v).fwd = s.fwd := rfl
@[simp] theorem State.emit_bfAcc (s : State) (v : Level) : (s.emit v).bfAcc = s.bfAcc := rfl
@[simp] theorem State.emit_bfDone (s : State) (v : Level) : (s.emit v).bfDone = s.bfDone := rfl
@[simp] theorem State.emit_prev (s : State) (v : Level) : (s.emit v).prev = s.prev := rfl
@[simp] theorem State.emit_tHigh (s : State) (v : Level) : (s.emit v).tHigh = s.tHigh := rfl
@[simp] theorem State.emit_tLow (s : State) (v : Level) : (s.emit v).tLow = s.tLow := rfl
@[simp] theorem State.emit_lastLevel (s : State) (v : Level) : (s.emit v).lastLevel = s.lastLevel := rfl
@[simp] theorem State.emit_answer (s : State) (v : Level) : (s.emit v).answer = s.answer := rfl
@[simp] theorem State.emit_answerValid (s : State) (v : Level) : (s.emit v).answerValid = s.answerValid := rfl
@[simp] theorem State.emit_err (s : State) (v : Level) : (s.emit v).err = s.err := rfl
@[simp] theorem State.emit_cnt (s : State) (v : Level) : (s.emit v).cnt = s.cnt := rfl
@[simp] theorem State.emit_irHb (s : State) (v : Level) : (s.emit v).irHb = s.irHb := rfl
@[simp] theorem State.emit_irStop (s : State) (v : Level) : (s.emit v).irStop = s.irStop := rfl
@[simp] theorem State.emit_irCap (s : State) (v : Level) : (s.emit v).irCap = s.irCap := rfl
@[simp] theorem State.emit_capVal (s : State) (v : Level) : (s.emit v).capVal = s.capVal := rfl
@[simp] theorem State.emit_rx (s : State) (v : Level) : (s.emit v).rx = s.rx := rfl
@[simp] theorem State.emit_prevRx (s : State) (v : Level) : (s.emit v).prevRx = s.prevRx := rfl
@[simp] theorem State.emit_result (s : State) (v : Level) : (s.emit v).result = s.result := rfl
@[simp] theorem State.emit_env (s : State) (v : Level) : (s.emit v).env = s.env := rfl
@[simp] theorem State.emit_chained (s : State) (v : Level) : (s.emit v).chained = s.chained := rfl

/-! ### CLEAR_BF -/

@[simp] theorem State.clearBf_params (s : State) : (s.clearBf).params = s.params := rfl
@[simp] theorem State.clearBf_state (s : State) : (s.clearBf).state = s.state := rfl
@[simp] theorem State.clearBf_busy (s : State) : (s.clearBf).busy = s.busy := rfl
@[simp] theorem State.clearBf_hbIdx (s : State) : (s.clearBf).hbIdx = s.hbIdx := rfl
@[simp] theorem State.clearBf_pol (s : State) : (s.clearBf).pol = s.pol := rfl
@[simp] theorem State.clearBf_fwd (s : State) : (s.clearBf).fwd = s.fwd := rfl
@[simp] theorem State.clearBf_bfAcc (s : State) : (s.clearBf).bfAcc = 0 := rfl
@[simp] theorem State.clearBf_bfDone (s : State) : (s.clearBf).bfDone = s.bfDone := rfl
@[simp] theorem State.clearBf_prev (s : State) : (s.clearBf).prev = false := rfl
@[simp] theorem State.clearBf_tHigh (s : State) : (s.clearBf).tHigh = s.tHigh := rfl
@[simp] theorem State.clearBf_tLow (s : State) : (s.clearBf).tLow = s.tLow := rfl
@[simp] theorem State.clearBf_lastLevel (s : State) : (s.clearBf).lastLevel = s.lastLevel := rfl
@[simp] theorem State.clearBf_answer (s : State) : (s.clearBf).answer = s.answer := rfl
@[simp] theorem State.clearBf_answerValid (s : State) : (s.clearBf).answerValid = s.answerValid := rfl
@[simp] theorem State.clearBf_err (s : State) : (s.clearBf).err = s.err := rfl
@[simp] theorem State.clearBf_cnt (s : State) : (s.clearBf).cnt = s.cnt := rfl
@[simp] theorem State.clearBf_irHb (s : State) : (s.clearBf).irHb = s.irHb := rfl
@[simp] theorem State.clearBf_irStop (s : State) : (s.clearBf).irStop = s.irStop := rfl
@[simp] theorem State.clearBf_irCap (s : State) : (s.clearBf).irCap = s.irCap := rfl
@[simp] theorem State.clearBf_capVal (s : State) : (s.clearBf).capVal = s.capVal := rfl
@[simp] theorem State.clearBf_rx (s : State) : (s.clearBf).rx = s.rx := rfl
@[simp] theorem State.clearBf_prevRx (s : State) : (s.clearBf).prevRx = s.prevRx := rfl
@[simp] theorem State.clearBf_result (s : State) : (s.clearBf).result = s.result := rfl
@[simp] theorem State.clearBf_env (s : State) : (s.clearBf).env = s.env := rfl
@[simp] theorem State.clearBf_chained (s : State) : (s.clearBf).chained = s.chained := rfl

/-! ### SHIFT -/

@[simp] theorem State.shiftIn_params (s : State) (x : Bool) : (s.shiftIn x).params = s.params := rfl
@[simp] theorem State.shiftIn_state (s : State) (x : Bool) : (s.shiftIn x).state = s.state := rfl
@[simp] theorem State.shiftIn_busy (s : State) (x : Bool) : (s.shiftIn x).busy = s.busy := rfl
@[simp] theorem State.shiftIn_hbIdx (s : State) (x : Bool) : (s.shiftIn x).hbIdx = s.hbIdx := rfl
@[simp] theorem State.shiftIn_pol (s : State) (x : Bool) : (s.shiftIn x).pol = s.pol := rfl
@[simp] theorem State.shiftIn_fwd (s : State) (x : Bool) : (s.shiftIn x).fwd = s.fwd := rfl
@[simp] theorem State.shiftIn_bfAcc (s : State) (x : Bool) : (s.shiftIn x).bfAcc = (2 * s.bfAcc + x.toNat) % 2 ^ s.params.bfW := rfl
@[simp] theorem State.shiftIn_bfDone (s : State) (x : Bool) : (s.shiftIn x).bfDone = s.bfDone := rfl
@[simp] theorem State.shiftIn_prev (s : State) (x : Bool) : (s.shiftIn x).prev = s.prev := rfl
@[simp] theorem State.shiftIn_tHigh (s : State) (x : Bool) : (s.shiftIn x).tHigh = s.tHigh := rfl
@[simp] theorem State.shiftIn_tLow (s : State) (x : Bool) : (s.shiftIn x).tLow = s.tLow := rfl
@[simp] theorem State.shiftIn_lastLevel (s : State) (x : Bool) : (s.shiftIn x).lastLevel = s.lastLevel := rfl
@[simp] theorem State.shiftIn_answer (s : State) (x : Bool) : (s.shiftIn x).answer = s.answer := rfl
@[simp] theorem State.shiftIn_answerValid (s : State) (x : Bool) : (s.shiftIn x).answerValid = s.answerValid := rfl
@[simp] theorem State.shiftIn_err (s : State) (x : Bool) : (s.shiftIn x).err = s.err := rfl
@[simp] theorem State.shiftIn_cnt (s : State) (x : Bool) : (s.shiftIn x).cnt = s.cnt := rfl
@[simp] theorem State.shiftIn_irHb (s : State) (x : Bool) : (s.shiftIn x).irHb = s.irHb := rfl
@[simp] theorem State.shiftIn_irStop (s : State) (x : Bool) : (s.shiftIn x).irStop = s.irStop := rfl
@[simp] theorem State.shiftIn_irCap (s : State) (x : Bool) : (s.shiftIn x).irCap = s.irCap := rfl
@[simp] theorem State.shiftIn_capVal (s : State) (x : Bool) : (s.shiftIn x).capVal = s.capVal := rfl
@[simp] theorem State.shiftIn_rx (s : State) (x : Bool) : (s.shiftIn x).rx = s.rx := rfl
@[simp] theorem State.shiftIn_prevRx (s : State) (x : Bool) : (s.shiftIn x).prevRx = s.prevRx := rfl
@[simp] theorem State.shiftIn_result (s : State) (x : Bool) : (s.shiftIn x).result = s.result := rfl
@[simp] theorem State.shiftIn_env (s : State) (x : Bool) : (s.shiftIn x).env = s.env := rfl
@[simp] theorem State.shiftIn_chained (s : State) (x : Bool) : (s.shiftIn x).chained = s.chained := rfl

/-! ### an error -/

@[simp] theorem State.recordError_params (s : State) (c : BitVec 3) : (s.recordError c).params = s.params := rfl
@[simp] theorem State.recordError_state (s : State) (c : BitVec 3) : (s.recordError c).state = s.state := rfl
@[simp] theorem State.recordError_busy (s : State) (c : BitVec 3) : (s.recordError c).busy = s.busy := rfl
@[simp] theorem State.recordError_hbIdx (s : State) (c : BitVec 3) : (s.recordError c).hbIdx = s.hbIdx := rfl
@[simp] theorem State.recordError_pol (s : State) (c : BitVec 3) : (s.recordError c).pol = s.pol := rfl
@[simp] theorem State.recordError_fwd (s : State) (c : BitVec 3) : (s.recordError c).fwd = s.fwd := rfl
@[simp] theorem State.recordError_bfAcc (s : State) (c : BitVec 3) : (s.recordError c).bfAcc = 0 := rfl
@[simp] theorem State.recordError_bfDone (s : State) (c : BitVec 3) : (s.recordError c).bfDone = s.bfDone := rfl
@[simp] theorem State.recordError_prev (s : State) (c : BitVec 3) : (s.recordError c).prev = false := rfl
@[simp] theorem State.recordError_tHigh (s : State) (c : BitVec 3) : (s.recordError c).tHigh = s.tHigh := rfl
@[simp] theorem State.recordError_tLow (s : State) (c : BitVec 3) : (s.recordError c).tLow = s.tLow := rfl
@[simp] theorem State.recordError_lastLevel (s : State) (c : BitVec 3) : (s.recordError c).lastLevel = s.lastLevel := rfl
@[simp] theorem State.recordError_answer (s : State) (c : BitVec 3) : (s.recordError c).answer = s.answer := rfl
@[simp] theorem State.recordError_answerValid (s : State) (c : BitVec 3) : (s.recordError c).answerValid = s.answerValid := rfl
@[simp] theorem State.recordError_err (s : State) (c : BitVec 3) : (s.recordError c).err = c := rfl
@[simp] theorem State.recordError_cnt (s : State) (c : BitVec 3) : (s.recordError c).cnt = s.cnt := rfl
@[simp] theorem State.recordError_irHb (s : State) (c : BitVec 3) : (s.recordError c).irHb = s.irHb := rfl
@[simp] theorem State.recordError_irStop (s : State) (c : BitVec 3) : (s.recordError c).irStop = s.irStop := rfl
@[simp] theorem State.recordError_irCap (s : State) (c : BitVec 3) : (s.recordError c).irCap = s.irCap := rfl
@[simp] theorem State.recordError_capVal (s : State) (c : BitVec 3) : (s.recordError c).capVal = s.capVal := rfl
@[simp] theorem State.recordError_rx (s : State) (c : BitVec 3) : (s.recordError c).rx = s.rx := rfl
@[simp] theorem State.recordError_prevRx (s : State) (c : BitVec 3) : (s.recordError c).prevRx = s.prevRx := rfl
@[simp] theorem State.recordError_result (s : State) (c : BitVec 3) : (s.recordError c).result = s.result := rfl
@[simp] theorem State.recordError_env (s : State) (c : BitVec 3) : (s.recordError c).env = s.env := rfl
@[simp] theorem State.recordError_chained (s : State) (c : BitVec 3) : (s.recordError c).chained = s.chained := rfl

/-! ### the end of a transfer -/

@[simp] theorem State.endTransfer_params (s : State) : (s.endTransfer).params = s.params := rfl
@[simp] theorem State.endTransfer_state (s : State) : (s.endTransfer).state = stIdle := rfl
@[simp] theorem State.endTransfer_busy (s : State) : (s.endTransfer).busy = false := rfl
@[simp] theorem State.endTransfer_hbIdx (s : State) : (s.endTransfer).hbIdx = s.hbIdx := rfl
@[simp] theorem State.endTransfer_pol (s : State) : (s.endTransfer).pol = s.pol := rfl
@[simp] theorem State.endTransfer_fwd (s : State) : (s.endTransfer).fwd = s.fwd := rfl
@[simp] theorem State.endTransfer_bfAcc (s : State) : (s.endTransfer).bfAcc = 0 := rfl
@[simp] theorem State.endTransfer_bfDone (s : State) : (s.endTransfer).bfDone = false := rfl
@[simp] theorem State.endTransfer_prev (s : State) : (s.endTransfer).prev = false := rfl
@[simp] theorem State.endTransfer_tHigh (s : State) : (s.endTransfer).tHigh = s.tHigh := rfl
@[simp] theorem State.endTransfer_tLow (s : State) : (s.endTransfer).tLow = s.tLow := rfl
@[simp] theorem State.endTransfer_lastLevel (s : State) : (s.endTransfer).lastLevel = s.lastLevel := rfl
@[simp] theorem State.endTransfer_answer (s : State) : (s.endTransfer).answer = if s.bfDone then BitVec.ofNat 8 s.bfAcc else s.answer := rfl
@[simp] theorem State.endTransfer_answerValid (s : State) : (s.endTransfer).answerValid = (s.bfDone || s.answerValid) := rfl
@[simp] theorem State.endTransfer_err (s : State) : (s.endTransfer).err = s.err := rfl
@[simp] theorem State.endTransfer_cnt (s : State) : (s.endTransfer).cnt = s.cnt := rfl
@[simp] theorem State.endTransfer_irHb (s : State) : (s.endTransfer).irHb = s.irHb := rfl
@[simp] theorem State.endTransfer_irStop (s : State) : (s.endTransfer).irStop = s.irStop := rfl
@[simp] theorem State.endTransfer_irCap (s : State) : (s.endTransfer).irCap = s.irCap := rfl
@[simp] theorem State.endTransfer_capVal (s : State) : (s.endTransfer).capVal = s.capVal := rfl
@[simp] theorem State.endTransfer_rx (s : State) : (s.endTransfer).rx = s.rx := rfl
@[simp] theorem State.endTransfer_prevRx (s : State) : (s.endTransfer).prevRx = s.prevRx := rfl
@[simp] theorem State.endTransfer_result (s : State) : (s.endTransfer).result = s.result := rfl
@[simp] theorem State.endTransfer_env (s : State) : (s.endTransfer).env = s.env := rfl
@[simp] theorem State.endTransfer_chained (s : State) : (s.endTransfer).chained = s.chained := rfl

/-! ### an accepted START -/

@[simp] theorem State.startTransfer_params (s : State) (f : BitVec 16) : (s.startTransfer f).params = s.params := rfl
@[simp] theorem State.startTransfer_state (s : State) (f : BitVec 16) : (s.startTransfer f).state = stSending := rfl
@[simp] theorem State.startTransfer_busy (s : State) (f : BitVec 16) : (s.startTransfer f).busy = true := rfl
@[simp] theorem State.startTransfer_hbIdx (s : State) (f : BitVec 16) : (s.startTransfer f).hbIdx = 0 := rfl
@[simp] theorem State.startTransfer_pol (s : State) (f : BitVec 16) : (s.startTransfer f).pol = false := rfl
@[simp] theorem State.startTransfer_fwd (s : State) (f : BitVec 16) : (s.startTransfer f).fwd = f := rfl
@[simp] theorem State.startTransfer_bfAcc (s : State) (f : BitVec 16) : (s.startTransfer f).bfAcc = 0 := rfl
@[simp] theorem State.startTransfer_bfDone (s : State) (f : BitVec 16) : (s.startTransfer f).bfDone = false := rfl
@[simp] theorem State.startTransfer_prev (s : State) (f : BitVec 16) : (s.startTransfer f).prev = false := rfl
@[simp] theorem State.startTransfer_tHigh (s : State) (f : BitVec 16) : (s.startTransfer f).tHigh = 0 := rfl
@[simp] theorem State.startTransfer_tLow (s : State) (f : BitVec 16) : (s.startTransfer f).tLow = 0 := rfl
@[simp] theorem State.startTransfer_lastLevel (s : State) (f : BitVec 16) : (s.startTransfer f).lastLevel = s.lastLevel := rfl
@[simp] theorem State.startTransfer_answer (s : State) (f : BitVec 16) : (s.startTransfer f).answer = 0 := rfl
@[simp] theorem State.startTransfer_answerValid (s : State) (f : BitVec 16) : (s.startTransfer f).answerValid = false := rfl
@[simp] theorem State.startTransfer_err (s : State) (f : BitVec 16) : (s.startTransfer f).err = 0 := rfl
@[simp] theorem State.startTransfer_cnt (s : State) (f : BitVec 16) : (s.startTransfer f).cnt = 0 := rfl
@[simp] theorem State.startTransfer_irHb (s : State) (f : BitVec 16) : (s.startTransfer f).irHb = false := rfl
@[simp] theorem State.startTransfer_irStop (s : State) (f : BitVec 16) : (s.startTransfer f).irStop = false := rfl
@[simp] theorem State.startTransfer_irCap (s : State) (f : BitVec 16) : (s.startTransfer f).irCap = false := rfl
@[simp] theorem State.startTransfer_capVal (s : State) (f : BitVec 16) : (s.startTransfer f).capVal = s.capVal := rfl
@[simp] theorem State.startTransfer_rx (s : State) (f : BitVec 16) : (s.startTransfer f).rx = s.rx := rfl
@[simp] theorem State.startTransfer_prevRx (s : State) (f : BitVec 16) : (s.startTransfer f).prevRx = s.prevRx := rfl
@[simp] theorem State.startTransfer_result (s : State) (f : BitVec 16) : (s.startTransfer f).result = s.result := rfl
@[simp] theorem State.startTransfer_env (s : State) (f : BitVec 16) : (s.startTransfer f).env = s.env := rfl
@[simp] theorem State.startTransfer_chained (s : State) (f : BitVec 16) : (s.startTransfer f).chained = s.chained := rfl

/-! ### PREV -/

@[simp] theorem State.setPrev_params (s : State) (v : Bool) : (s.setPrev v).params = s.params := rfl
@[simp] theorem State.setPrev_state (s : State) (v : Bool) : (s.setPrev v).state = s.state := rfl
@[simp] theorem State.setPrev_busy (s : State) (v : Bool) : (s.setPrev v).busy = s.busy := rfl
@[simp] theorem State.setPrev_hbIdx (s : State) (v : Bool) : (s.setPrev v).hbIdx = s.hbIdx := rfl
@[simp] theorem State.setPrev_pol (s : State) (v : Bool) : (s.setPrev v).pol = s.pol := rfl
@[simp] theorem State.setPrev_fwd (s : State) (v : Bool) : (s.setPrev v).fwd = s.fwd := rfl
@[simp] theorem State.setPrev_bfAcc (s : State) (v : Bool) : (s.setPrev v).bfAcc = s.bfAcc := rfl
@[simp] theorem State.setPrev_bfDone (s : State) (v : Bool) : (s.setPrev v).bfDone = s.bfDone := rfl
@[simp] theorem State.setPrev_prev (s : State) (v : Bool) : (s.setPrev v).prev = v := rfl
@[simp] theorem State.setPrev_tHigh (s : State) (v : Bool) : (s.setPrev v).tHigh = s.tHigh := rfl
@[simp] theorem State.setPrev_tLow (s : State) (v : Bool) : (s.setPrev v).tLow = s.tLow := rfl
@[simp] theorem State.setPrev_lastLevel (s : State) (v : Bool) : (s.setPrev v).lastLevel = s.lastLevel := rfl
@[simp] theorem State.setPrev_answer (s : State) (v : Bool) : (s.setPrev v).answer = s.answer := rfl
@[simp] theorem State.setPrev_answerValid (s : State) (v : Bool) : (s.setPrev v).answerValid = s.answerValid := rfl
@[simp] theorem State.setPrev_err (s : State) (v : Bool) : (s.setPrev v).err = s.err := rfl
@[simp] theorem State.setPrev_cnt (s : State) (v : Bool) : (s.setPrev v).cnt = s.cnt := rfl
@[simp] theorem State.setPrev_irHb (s : State) (v : Bool) : (s.setPrev v).irHb = s.irHb := rfl
@[simp] theorem State.setPrev_irStop (s : State) (v : Bool) : (s.setPrev v).irStop = s.irStop := rfl
@[simp] theorem State.setPrev_irCap (s : State) (v : Bool) : (s.setPrev v).irCap = s.irCap := rfl
@[simp] theorem State.setPrev_capVal (s : State) (v : Bool) : (s.setPrev v).capVal = s.capVal := rfl
@[simp] theorem State.setPrev_rx (s : State) (v : Bool) : (s.setPrev v).rx = s.rx := rfl
@[simp] theorem State.setPrev_prevRx (s : State) (v : Bool) : (s.setPrev v).prevRx = s.prevRx := rfl
@[simp] theorem State.setPrev_result (s : State) (v : Bool) : (s.setPrev v).result = s.result := rfl
@[simp] theorem State.setPrev_env (s : State) (v : Bool) : (s.setPrev v).env = s.env := rfl
@[simp] theorem State.setPrev_chained (s : State) (v : Bool) : (s.setPrev v).chained = s.chained := rfl

/-! ### the seed -/

@[simp] theorem State.seed_params (s : State) : (s.seed).params = s.params := rfl
@[simp] theorem State.seed_state (s : State) : (s.seed).state = s.state := rfl
@[simp] theorem State.seed_busy (s : State) : (s.seed).busy = s.busy := rfl
@[simp] theorem State.seed_hbIdx (s : State) : (s.seed).hbIdx = s.hbIdx := rfl
@[simp] theorem State.seed_pol (s : State) : (s.seed).pol = s.pol := rfl
@[simp] theorem State.seed_fwd (s : State) : (s.seed).fwd = s.fwd := rfl
@[simp] theorem State.seed_bfAcc (s : State) : (s.seed).bfAcc = 1 := rfl
@[simp] theorem State.seed_bfDone (s : State) : (s.seed).bfDone = s.bfDone := rfl
@[simp] theorem State.seed_prev (s : State) : (s.seed).prev = true := rfl
@[simp] theorem State.seed_tHigh (s : State) : (s.seed).tHigh = s.tHigh := rfl
@[simp] theorem State.seed_tLow (s : State) : (s.seed).tLow = s.tLow := rfl
@[simp] theorem State.seed_lastLevel (s : State) : (s.seed).lastLevel = s.lastLevel := rfl
@[simp] theorem State.seed_answer (s : State) : (s.seed).answer = s.answer := rfl
@[simp] theorem State.seed_answerValid (s : State) : (s.seed).answerValid = s.answerValid := rfl
@[simp] theorem State.seed_err (s : State) : (s.seed).err = s.err := rfl
@[simp] theorem State.seed_cnt (s : State) : (s.seed).cnt = s.cnt := rfl
@[simp] theorem State.seed_irHb (s : State) : (s.seed).irHb = s.irHb := rfl
@[simp] theorem State.seed_irStop (s : State) : (s.seed).irStop = s.irStop := rfl
@[simp] theorem State.seed_irCap (s : State) : (s.seed).irCap = s.irCap := rfl
@[simp] theorem State.seed_capVal (s : State) : (s.seed).capVal = s.capVal := rfl
@[simp] theorem State.seed_rx (s : State) : (s.seed).rx = s.rx := rfl
@[simp] theorem State.seed_prevRx (s : State) : (s.seed).prevRx = s.prevRx := rfl
@[simp] theorem State.seed_result (s : State) : (s.seed).result = s.result := rfl
@[simp] theorem State.seed_env (s : State) : (s.seed).env = s.env := rfl
@[simp] theorem State.seed_chained (s : State) : (s.seed).chained = s.chained := rfl

/-! ### completion -/

@[simp] theorem State.markDone_params (s : State) : (s.markDone).params = s.params := rfl
@[simp] theorem State.markDone_state (s : State) : (s.markDone).state = s.state := rfl
@[simp] theorem State.markDone_busy (s : State) : (s.markDone).busy = s.busy := rfl
@[simp] theorem State.markDone_hbIdx (s : State) : (s.markDone).hbIdx = s.hbIdx := rfl
@[simp] theorem State.markDone_pol (s : State) : (s.markDone).pol = s.pol := rfl
@[simp] theorem State.markDone_fwd (s : State) : (s.markDone).fwd = s.fwd := rfl
@[simp] theorem State.markDone_bfAcc (s : State) : (s.markDone).bfAcc = s.bfAcc := rfl
@[simp] theorem State.markDone_bfDone (s : State) : (s.markDone).bfDone = true := rfl
@[simp] theorem State.markDone_prev (s : State) : (s.markDone).prev = s.prev := rfl
@[simp] theorem State.markDone_tHigh (s : State) : (s.markDone).tHigh = s.tHigh := rfl
@[simp] theorem State.markDone_tLow (s : State) : (s.markDone).tLow = s.tLow := rfl
@[simp] theorem State.markDone_lastLevel (s : State) : (s.markDone).lastLevel = s.lastLevel := rfl
@[simp] theorem State.markDone_answer (s : State) : (s.markDone).answer = s.answer := rfl
@[simp] theorem State.markDone_answerValid (s : State) : (s.markDone).answerValid = s.answerValid := rfl
@[simp] theorem State.markDone_err (s : State) : (s.markDone).err = s.err := rfl
@[simp] theorem State.markDone_cnt (s : State) : (s.markDone).cnt = s.cnt := rfl
@[simp] theorem State.markDone_irHb (s : State) : (s.markDone).irHb = s.irHb := rfl
@[simp] theorem State.markDone_irStop (s : State) : (s.markDone).irStop = s.irStop := rfl
@[simp] theorem State.markDone_irCap (s : State) : (s.markDone).irCap = s.irCap := rfl
@[simp] theorem State.markDone_capVal (s : State) : (s.markDone).capVal = s.capVal := rfl
@[simp] theorem State.markDone_rx (s : State) : (s.markDone).rx = s.rx := rfl
@[simp] theorem State.markDone_prevRx (s : State) : (s.markDone).prevRx = s.prevRx := rfl
@[simp] theorem State.markDone_result (s : State) : (s.markDone).result = s.result := rfl
@[simp] theorem State.markDone_env (s : State) : (s.markDone).env = s.env := rfl
@[simp] theorem State.markDone_chained (s : State) : (s.markDone).chained = s.chained := rfl

/-! ### a falling edge's record -/

@[simp] theorem State.recordHigh_params (s : State) : (s.recordHigh).params = s.params := rfl
@[simp] theorem State.recordHigh_state (s : State) : (s.recordHigh).state = s.state := rfl
@[simp] theorem State.recordHigh_busy (s : State) : (s.recordHigh).busy = s.busy := rfl
@[simp] theorem State.recordHigh_hbIdx (s : State) : (s.recordHigh).hbIdx = s.hbIdx := rfl
@[simp] theorem State.recordHigh_pol (s : State) : (s.recordHigh).pol = s.pol := rfl
@[simp] theorem State.recordHigh_fwd (s : State) : (s.recordHigh).fwd = s.fwd := rfl
@[simp] theorem State.recordHigh_bfAcc (s : State) : (s.recordHigh).bfAcc = s.bfAcc := rfl
@[simp] theorem State.recordHigh_bfDone (s : State) : (s.recordHigh).bfDone = s.bfDone := rfl
@[simp] theorem State.recordHigh_prev (s : State) : (s.recordHigh).prev = s.prev := rfl
@[simp] theorem State.recordHigh_tHigh (s : State) : (s.recordHigh).tHigh = s.capVal := rfl
@[simp] theorem State.recordHigh_tLow (s : State) : (s.recordHigh).tLow = s.tLow := rfl
@[simp] theorem State.recordHigh_lastLevel (s : State) : (s.recordHigh).lastLevel = false := rfl
@[simp] theorem State.recordHigh_answer (s : State) : (s.recordHigh).answer = s.answer := rfl
@[simp] theorem State.recordHigh_answerValid (s : State) : (s.recordHigh).answerValid = s.answerValid := rfl
@[simp] theorem State.recordHigh_err (s : State) : (s.recordHigh).err = s.err := rfl
@[simp] theorem State.recordHigh_cnt (s : State) : (s.recordHigh).cnt = s.cnt := rfl
@[simp] theorem State.recordHigh_irHb (s : State) : (s.recordHigh).irHb = s.irHb := rfl
@[simp] theorem State.recordHigh_irStop (s : State) : (s.recordHigh).irStop = s.irStop := rfl
@[simp] theorem State.recordHigh_irCap (s : State) : (s.recordHigh).irCap = s.irCap := rfl
@[simp] theorem State.recordHigh_capVal (s : State) : (s.recordHigh).capVal = s.capVal := rfl
@[simp] theorem State.recordHigh_rx (s : State) : (s.recordHigh).rx = s.rx := rfl
@[simp] theorem State.recordHigh_prevRx (s : State) : (s.recordHigh).prevRx = s.prevRx := rfl
@[simp] theorem State.recordHigh_result (s : State) : (s.recordHigh).result = s.result := rfl
@[simp] theorem State.recordHigh_env (s : State) : (s.recordHigh).env = s.env := rfl
@[simp] theorem State.recordHigh_chained (s : State) : (s.recordHigh).chained = s.chained := rfl

/-! ### a rising edge's record -/

@[simp] theorem State.recordLow_params (s : State) : (s.recordLow).params = s.params := rfl
@[simp] theorem State.recordLow_state (s : State) : (s.recordLow).state = s.state := rfl
@[simp] theorem State.recordLow_busy (s : State) : (s.recordLow).busy = s.busy := rfl
@[simp] theorem State.recordLow_hbIdx (s : State) : (s.recordLow).hbIdx = s.hbIdx := rfl
@[simp] theorem State.recordLow_pol (s : State) : (s.recordLow).pol = s.pol := rfl
@[simp] theorem State.recordLow_fwd (s : State) : (s.recordLow).fwd = s.fwd := rfl
@[simp] theorem State.recordLow_bfAcc (s : State) : (s.recordLow).bfAcc = s.bfAcc := rfl
@[simp] theorem State.recordLow_bfDone (s : State) : (s.recordLow).bfDone = s.bfDone := rfl
@[simp] theorem State.recordLow_prev (s : State) : (s.recordLow).prev = s.prev := rfl
@[simp] theorem State.recordLow_tHigh (s : State) : (s.recordLow).tHigh = s.tHigh := rfl
@[simp] theorem State.recordLow_tLow (s : State) : (s.recordLow).tLow = s.capVal := rfl
@[simp] theorem State.recordLow_lastLevel (s : State) : (s.recordLow).lastLevel = true := rfl
@[simp] theorem State.recordLow_answer (s : State) : (s.recordLow).answer = s.answer := rfl
@[simp] theorem State.recordLow_answerValid (s : State) : (s.recordLow).answerValid = s.answerValid := rfl
@[simp] theorem State.recordLow_err (s : State) : (s.recordLow).err = s.err := rfl
@[simp] theorem State.recordLow_cnt (s : State) : (s.recordLow).cnt = s.cnt := rfl
@[simp] theorem State.recordLow_irHb (s : State) : (s.recordLow).irHb = s.irHb := rfl
@[simp] theorem State.recordLow_irStop (s : State) : (s.recordLow).irStop = s.irStop := rfl
@[simp] theorem State.recordLow_irCap (s : State) : (s.recordLow).irCap = s.irCap := rfl
@[simp] theorem State.recordLow_capVal (s : State) : (s.recordLow).capVal = s.capVal := rfl
@[simp] theorem State.recordLow_rx (s : State) : (s.recordLow).rx = s.rx := rfl
@[simp] theorem State.recordLow_prevRx (s : State) : (s.recordLow).prevRx = s.prevRx := rfl
@[simp] theorem State.recordLow_result (s : State) : (s.recordLow).result = s.result := rfl
@[simp] theorem State.recordLow_env (s : State) : (s.recordLow).env = s.env := rfl
@[simp] theorem State.recordLow_chained (s : State) : (s.recordLow).chained = s.chained := rfl

/-! ### the sampled level -/

@[simp] theorem State.sampleLevel_params (s : State) : (s.sampleLevel).params = s.params := rfl
@[simp] theorem State.sampleLevel_state (s : State) : (s.sampleLevel).state = s.state := rfl
@[simp] theorem State.sampleLevel_busy (s : State) : (s.sampleLevel).busy = s.busy := rfl
@[simp] theorem State.sampleLevel_hbIdx (s : State) : (s.sampleLevel).hbIdx = s.hbIdx := rfl
@[simp] theorem State.sampleLevel_pol (s : State) : (s.sampleLevel).pol = s.pol := rfl
@[simp] theorem State.sampleLevel_fwd (s : State) : (s.sampleLevel).fwd = s.fwd := rfl
@[simp] theorem State.sampleLevel_bfAcc (s : State) : (s.sampleLevel).bfAcc = s.bfAcc := rfl
@[simp] theorem State.sampleLevel_bfDone (s : State) : (s.sampleLevel).bfDone = s.bfDone := rfl
@[simp] theorem State.sampleLevel_prev (s : State) : (s.sampleLevel).prev = s.prev := rfl
@[simp] theorem State.sampleLevel_tHigh (s : State) : (s.sampleLevel).tHigh = s.tHigh := rfl
@[simp] theorem State.sampleLevel_tLow (s : State) : (s.sampleLevel).tLow = s.tLow := rfl
@[simp] theorem State.sampleLevel_lastLevel (s : State) : (s.sampleLevel).lastLevel = s.rx := rfl
@[simp] theorem State.sampleLevel_answer (s : State) : (s.sampleLevel).answer = s.answer := rfl
@[simp] theorem State.sampleLevel_answerValid (s : State) : (s.sampleLevel).answerValid = s.answerValid := rfl
@[simp] theorem State.sampleLevel_err (s : State) : (s.sampleLevel).err = s.err := rfl
@[simp] theorem State.sampleLevel_cnt (s : State) : (s.sampleLevel).cnt = s.cnt := rfl
@[simp] theorem State.sampleLevel_irHb (s : State) : (s.sampleLevel).irHb = s.irHb := rfl
@[simp] theorem State.sampleLevel_irStop (s : State) : (s.sampleLevel).irStop = s.irStop := rfl
@[simp] theorem State.sampleLevel_irCap (s : State) : (s.sampleLevel).irCap = s.irCap := rfl
@[simp] theorem State.sampleLevel_capVal (s : State) : (s.sampleLevel).capVal = s.capVal := rfl
@[simp] theorem State.sampleLevel_rx (s : State) : (s.sampleLevel).rx = s.rx := rfl
@[simp] theorem State.sampleLevel_prevRx (s : State) : (s.sampleLevel).prevRx = s.prevRx := rfl
@[simp] theorem State.sampleLevel_result (s : State) : (s.sampleLevel).result = s.result := rfl
@[simp] theorem State.sampleLevel_env (s : State) : (s.sampleLevel).env = s.env := rfl
@[simp] theorem State.sampleLevel_chained (s : State) : (s.sampleLevel).chained = s.chained := rfl

/-! ### the turnaround -/

@[simp] theorem State.turnAround_params (s : State) : (s.turnAround).params = s.params := rfl
@[simp] theorem State.turnAround_state (s : State) : (s.turnAround).state = stReceiving := rfl
@[simp] theorem State.turnAround_busy (s : State) : (s.turnAround).busy = s.busy := rfl
@[simp] theorem State.turnAround_hbIdx (s : State) : (s.turnAround).hbIdx = s.hbIdx + 1 := rfl
@[simp] theorem State.turnAround_pol (s : State) : (s.turnAround).pol = s.pol := rfl
@[simp] theorem State.turnAround_fwd (s : State) : (s.turnAround).fwd = s.fwd := rfl
@[simp] theorem State.turnAround_bfAcc (s : State) : (s.turnAround).bfAcc = s.bfAcc := rfl
@[simp] theorem State.turnAround_bfDone (s : State) : (s.turnAround).bfDone = s.bfDone := rfl
@[simp] theorem State.turnAround_prev (s : State) : (s.turnAround).prev = s.prev := rfl
@[simp] theorem State.turnAround_tHigh (s : State) : (s.turnAround).tHigh = s.tHigh := rfl
@[simp] theorem State.turnAround_tLow (s : State) : (s.turnAround).tLow = s.tLow := rfl
@[simp] theorem State.turnAround_lastLevel (s : State) : (s.turnAround).lastLevel = s.rx := rfl
@[simp] theorem State.turnAround_answer (s : State) : (s.turnAround).answer = s.answer := rfl
@[simp] theorem State.turnAround_answerValid (s : State) : (s.turnAround).answerValid = s.answerValid := rfl
@[simp] theorem State.turnAround_err (s : State) : (s.turnAround).err = s.err := rfl
@[simp] theorem State.turnAround_cnt (s : State) : (s.turnAround).cnt = s.cnt := rfl
@[simp] theorem State.turnAround_irHb (s : State) : (s.turnAround).irHb = s.irHb := rfl
@[simp] theorem State.turnAround_irStop (s : State) : (s.turnAround).irStop = s.irStop := rfl
@[simp] theorem State.turnAround_irCap (s : State) : (s.turnAround).irCap = s.irCap := rfl
@[simp] theorem State.turnAround_capVal (s : State) : (s.turnAround).capVal = s.capVal := rfl
@[simp] theorem State.turnAround_rx (s : State) : (s.turnAround).rx = s.rx := rfl
@[simp] theorem State.turnAround_prevRx (s : State) : (s.turnAround).prevRx = s.prevRx := rfl
@[simp] theorem State.turnAround_result (s : State) : (s.turnAround).result = s.result := rfl
@[simp] theorem State.turnAround_env (s : State) : (s.turnAround).env = s.env := rfl
@[simp] theorem State.turnAround_chained (s : State) : (s.turnAround).chained = s.chained := rfl

/-! ### a returned value -/

@[simp] theorem State.answerWith_params (s : State) (r : Result) : (s.answerWith r).params = s.params := rfl
@[simp] theorem State.answerWith_state (s : State) (r : Result) : (s.answerWith r).state = s.state := rfl
@[simp] theorem State.answerWith_busy (s : State) (r : Result) : (s.answerWith r).busy = s.busy := rfl
@[simp] theorem State.answerWith_hbIdx (s : State) (r : Result) : (s.answerWith r).hbIdx = s.hbIdx := rfl
@[simp] theorem State.answerWith_pol (s : State) (r : Result) : (s.answerWith r).pol = s.pol := rfl
@[simp] theorem State.answerWith_fwd (s : State) (r : Result) : (s.answerWith r).fwd = s.fwd := rfl
@[simp] theorem State.answerWith_bfAcc (s : State) (r : Result) : (s.answerWith r).bfAcc = s.bfAcc := rfl
@[simp] theorem State.answerWith_bfDone (s : State) (r : Result) : (s.answerWith r).bfDone = s.bfDone := rfl
@[simp] theorem State.answerWith_prev (s : State) (r : Result) : (s.answerWith r).prev = s.prev := rfl
@[simp] theorem State.answerWith_tHigh (s : State) (r : Result) : (s.answerWith r).tHigh = s.tHigh := rfl
@[simp] theorem State.answerWith_tLow (s : State) (r : Result) : (s.answerWith r).tLow = s.tLow := rfl
@[simp] theorem State.answerWith_lastLevel (s : State) (r : Result) : (s.answerWith r).lastLevel = s.lastLevel := rfl
@[simp] theorem State.answerWith_answer (s : State) (r : Result) : (s.answerWith r).answer = s.answer := rfl
@[simp] theorem State.answerWith_answerValid (s : State) (r : Result) : (s.answerWith r).answerValid = s.answerValid := rfl
@[simp] theorem State.answerWith_err (s : State) (r : Result) : (s.answerWith r).err = s.err := rfl
@[simp] theorem State.answerWith_cnt (s : State) (r : Result) : (s.answerWith r).cnt = s.cnt := rfl
@[simp] theorem State.answerWith_irHb (s : State) (r : Result) : (s.answerWith r).irHb = s.irHb := rfl
@[simp] theorem State.answerWith_irStop (s : State) (r : Result) : (s.answerWith r).irStop = s.irStop := rfl
@[simp] theorem State.answerWith_irCap (s : State) (r : Result) : (s.answerWith r).irCap = s.irCap := rfl
@[simp] theorem State.answerWith_capVal (s : State) (r : Result) : (s.answerWith r).capVal = s.capVal := rfl
@[simp] theorem State.answerWith_rx (s : State) (r : Result) : (s.answerWith r).rx = s.rx := rfl
@[simp] theorem State.answerWith_prevRx (s : State) (r : Result) : (s.answerWith r).prevRx = s.prevRx := rfl
@[simp] theorem State.answerWith_result (s : State) (r : Result) : (s.answerWith r).result = r := rfl
@[simp] theorem State.answerWith_env (s : State) (r : Result) : (s.answerWith r).env = s.env := rfl
@[simp] theorem State.answerWith_chained (s : State) (r : Result) : (s.answerWith r).chained = s.chained := rfl

/-! ### the trace -/

@[simp] theorem State.withEnv_params (s : State) (es : List Stimulus) : (s.withEnv es).params = s.params := rfl
@[simp] theorem State.withEnv_state (s : State) (es : List Stimulus) : (s.withEnv es).state = s.state := rfl
@[simp] theorem State.withEnv_busy (s : State) (es : List Stimulus) : (s.withEnv es).busy = s.busy := rfl
@[simp] theorem State.withEnv_hbIdx (s : State) (es : List Stimulus) : (s.withEnv es).hbIdx = s.hbIdx := rfl
@[simp] theorem State.withEnv_pol (s : State) (es : List Stimulus) : (s.withEnv es).pol = s.pol := rfl
@[simp] theorem State.withEnv_fwd (s : State) (es : List Stimulus) : (s.withEnv es).fwd = s.fwd := rfl
@[simp] theorem State.withEnv_bfAcc (s : State) (es : List Stimulus) : (s.withEnv es).bfAcc = s.bfAcc := rfl
@[simp] theorem State.withEnv_bfDone (s : State) (es : List Stimulus) : (s.withEnv es).bfDone = s.bfDone := rfl
@[simp] theorem State.withEnv_prev (s : State) (es : List Stimulus) : (s.withEnv es).prev = s.prev := rfl
@[simp] theorem State.withEnv_tHigh (s : State) (es : List Stimulus) : (s.withEnv es).tHigh = s.tHigh := rfl
@[simp] theorem State.withEnv_tLow (s : State) (es : List Stimulus) : (s.withEnv es).tLow = s.tLow := rfl
@[simp] theorem State.withEnv_lastLevel (s : State) (es : List Stimulus) : (s.withEnv es).lastLevel = s.lastLevel := rfl
@[simp] theorem State.withEnv_answer (s : State) (es : List Stimulus) : (s.withEnv es).answer = s.answer := rfl
@[simp] theorem State.withEnv_answerValid (s : State) (es : List Stimulus) : (s.withEnv es).answerValid = s.answerValid := rfl
@[simp] theorem State.withEnv_err (s : State) (es : List Stimulus) : (s.withEnv es).err = s.err := rfl
@[simp] theorem State.withEnv_cnt (s : State) (es : List Stimulus) : (s.withEnv es).cnt = s.cnt := rfl
@[simp] theorem State.withEnv_irHb (s : State) (es : List Stimulus) : (s.withEnv es).irHb = s.irHb := rfl
@[simp] theorem State.withEnv_irStop (s : State) (es : List Stimulus) : (s.withEnv es).irStop = s.irStop := rfl
@[simp] theorem State.withEnv_irCap (s : State) (es : List Stimulus) : (s.withEnv es).irCap = s.irCap := rfl
@[simp] theorem State.withEnv_capVal (s : State) (es : List Stimulus) : (s.withEnv es).capVal = s.capVal := rfl
@[simp] theorem State.withEnv_rx (s : State) (es : List Stimulus) : (s.withEnv es).rx = s.rx := rfl
@[simp] theorem State.withEnv_prevRx (s : State) (es : List Stimulus) : (s.withEnv es).prevRx = s.prevRx := rfl
@[simp] theorem State.withEnv_result (s : State) (es : List Stimulus) : (s.withEnv es).result = s.result := rfl
@[simp] theorem State.withEnv_env (s : State) (es : List Stimulus) : (s.withEnv es).env = es := rfl
@[simp] theorem State.withEnv_chained (s : State) (es : List Stimulus) : (s.withEnv es).chained = s.chained := rfl

/-! ### the chain -/

@[simp] theorem State.withChained_params (s : State) (b : Bool) : (s.withChained b).params = s.params := rfl
@[simp] theorem State.withChained_state (s : State) (b : Bool) : (s.withChained b).state = s.state := rfl
@[simp] theorem State.withChained_busy (s : State) (b : Bool) : (s.withChained b).busy = s.busy := rfl
@[simp] theorem State.withChained_hbIdx (s : State) (b : Bool) : (s.withChained b).hbIdx = s.hbIdx := rfl
@[simp] theorem State.withChained_pol (s : State) (b : Bool) : (s.withChained b).pol = s.pol := rfl
@[simp] theorem State.withChained_fwd (s : State) (b : Bool) : (s.withChained b).fwd = s.fwd := rfl
@[simp] theorem State.withChained_bfAcc (s : State) (b : Bool) : (s.withChained b).bfAcc = s.bfAcc := rfl
@[simp] theorem State.withChained_bfDone (s : State) (b : Bool) : (s.withChained b).bfDone = s.bfDone := rfl
@[simp] theorem State.withChained_prev (s : State) (b : Bool) : (s.withChained b).prev = s.prev := rfl
@[simp] theorem State.withChained_tHigh (s : State) (b : Bool) : (s.withChained b).tHigh = s.tHigh := rfl
@[simp] theorem State.withChained_tLow (s : State) (b : Bool) : (s.withChained b).tLow = s.tLow := rfl
@[simp] theorem State.withChained_lastLevel (s : State) (b : Bool) : (s.withChained b).lastLevel = s.lastLevel := rfl
@[simp] theorem State.withChained_answer (s : State) (b : Bool) : (s.withChained b).answer = s.answer := rfl
@[simp] theorem State.withChained_answerValid (s : State) (b : Bool) : (s.withChained b).answerValid = s.answerValid := rfl
@[simp] theorem State.withChained_err (s : State) (b : Bool) : (s.withChained b).err = s.err := rfl
@[simp] theorem State.withChained_cnt (s : State) (b : Bool) : (s.withChained b).cnt = s.cnt := rfl
@[simp] theorem State.withChained_irHb (s : State) (b : Bool) : (s.withChained b).irHb = s.irHb := rfl
@[simp] theorem State.withChained_irStop (s : State) (b : Bool) : (s.withChained b).irStop = s.irStop := rfl
@[simp] theorem State.withChained_irCap (s : State) (b : Bool) : (s.withChained b).irCap = s.irCap := rfl
@[simp] theorem State.withChained_capVal (s : State) (b : Bool) : (s.withChained b).capVal = s.capVal := rfl
@[simp] theorem State.withChained_rx (s : State) (b : Bool) : (s.withChained b).rx = s.rx := rfl
@[simp] theorem State.withChained_prevRx (s : State) (b : Bool) : (s.withChained b).prevRx = s.prevRx := rfl
@[simp] theorem State.withChained_result (s : State) (b : Bool) : (s.withChained b).result = s.result := rfl
@[simp] theorem State.withChained_env (s : State) (b : Bool) : (s.withChained b).env = s.env := rfl
@[simp] theorem State.withChained_chained (s : State) (b : Bool) : (s.withChained b).chained = b := rfl

/-! ### RESET -/

@[simp] theorem State.resetAll_params (s : State) : (s.resetAll).params = s.params := rfl
@[simp] theorem State.resetAll_state (s : State) : (s.resetAll).state = stIdle := rfl
@[simp] theorem State.resetAll_busy (s : State) : (s.resetAll).busy = false := rfl
@[simp] theorem State.resetAll_hbIdx (s : State) : (s.resetAll).hbIdx = 0 := rfl
@[simp] theorem State.resetAll_pol (s : State) : (s.resetAll).pol = true := rfl
@[simp] theorem State.resetAll_fwd (s : State) : (s.resetAll).fwd = 0 := rfl
@[simp] theorem State.resetAll_bfAcc (s : State) : (s.resetAll).bfAcc = 0 := rfl
@[simp] theorem State.resetAll_bfDone (s : State) : (s.resetAll).bfDone = false := rfl
@[simp] theorem State.resetAll_prev (s : State) : (s.resetAll).prev = false := rfl
@[simp] theorem State.resetAll_tHigh (s : State) : (s.resetAll).tHigh = 0 := rfl
@[simp] theorem State.resetAll_tLow (s : State) : (s.resetAll).tLow = 0 := rfl
@[simp] theorem State.resetAll_lastLevel (s : State) : (s.resetAll).lastLevel = true := rfl
@[simp] theorem State.resetAll_answer (s : State) : (s.resetAll).answer = 0 := rfl
@[simp] theorem State.resetAll_answerValid (s : State) : (s.resetAll).answerValid = false := rfl
@[simp] theorem State.resetAll_err (s : State) : (s.resetAll).err = 0 := rfl
@[simp] theorem State.resetAll_cnt (s : State) : (s.resetAll).cnt = 0 := rfl
@[simp] theorem State.resetAll_irHb (s : State) : (s.resetAll).irHb = false := rfl
@[simp] theorem State.resetAll_irStop (s : State) : (s.resetAll).irStop = false := rfl
@[simp] theorem State.resetAll_irCap (s : State) : (s.resetAll).irCap = false := rfl
@[simp] theorem State.resetAll_capVal (s : State) : (s.resetAll).capVal = 0 := rfl
@[simp] theorem State.resetAll_rx (s : State) : (s.resetAll).rx = s.rx := rfl
@[simp] theorem State.resetAll_prevRx (s : State) : (s.resetAll).prevRx = true := rfl
@[simp] theorem State.resetAll_result (s : State) : (s.resetAll).result = .none := rfl
@[simp] theorem State.resetAll_env (s : State) : (s.resetAll).env = s.env := rfl
@[simp] theorem State.resetAll_chained (s : State) : (s.resetAll).chained = false := rfl

/-! ### the line's level -/

@[simp] theorem State.setRx_params (s : State) (v : Level) : (s.setRx v).params = s.params := rfl
@[simp] theorem State.setRx_state (s : State) (v : Level) : (s.setRx v).state = s.state := rfl
@[simp] theorem State.setRx_busy (s : State) (v : Level) : (s.setRx v).busy = s.busy := rfl
@[simp] theorem State.setRx_hbIdx (s : State) (v : Level) : (s.setRx v).hbIdx = s.hbIdx := rfl
@[simp] theorem State.setRx_pol (s : State) (v : Level) : (s.setRx v).pol = s.pol := rfl
@[simp] theorem State.setRx_fwd (s : State) (v : Level) : (s.setRx v).fwd = s.fwd := rfl
@[simp] theorem State.setRx_bfAcc (s : State) (v : Level) : (s.setRx v).bfAcc = s.bfAcc := rfl
@[simp] theorem State.setRx_bfDone (s : State) (v : Level) : (s.setRx v).bfDone = s.bfDone := rfl
@[simp] theorem State.setRx_prev (s : State) (v : Level) : (s.setRx v).prev = s.prev := rfl
@[simp] theorem State.setRx_tHigh (s : State) (v : Level) : (s.setRx v).tHigh = s.tHigh := rfl
@[simp] theorem State.setRx_tLow (s : State) (v : Level) : (s.setRx v).tLow = s.tLow := rfl
@[simp] theorem State.setRx_lastLevel (s : State) (v : Level) : (s.setRx v).lastLevel = s.lastLevel := rfl
@[simp] theorem State.setRx_answer (s : State) (v : Level) : (s.setRx v).answer = s.answer := rfl
@[simp] theorem State.setRx_answerValid (s : State) (v : Level) : (s.setRx v).answerValid = s.answerValid := rfl
@[simp] theorem State.setRx_err (s : State) (v : Level) : (s.setRx v).err = s.err := rfl
@[simp] theorem State.setRx_cnt (s : State) (v : Level) : (s.setRx v).cnt = s.cnt := rfl
@[simp] theorem State.setRx_irHb (s : State) (v : Level) : (s.setRx v).irHb = s.irHb := rfl
@[simp] theorem State.setRx_irStop (s : State) (v : Level) : (s.setRx v).irStop = s.irStop := rfl
@[simp] theorem State.setRx_irCap (s : State) (v : Level) : (s.setRx v).irCap = s.irCap := rfl
@[simp] theorem State.setRx_capVal (s : State) (v : Level) : (s.setRx v).capVal = s.capVal := rfl
@[simp] theorem State.setRx_rx (s : State) (v : Level) : (s.setRx v).rx = v := rfl
@[simp] theorem State.setRx_prevRx (s : State) (v : Level) : (s.setRx v).prevRx = s.prevRx := rfl
@[simp] theorem State.setRx_result (s : State) (v : Level) : (s.setRx v).result = s.result := rfl
@[simp] theorem State.setRx_env (s : State) (v : Level) : (s.setRx v).env = s.env := rfl
@[simp] theorem State.setRx_chained (s : State) (v : Level) : (s.setRx v).chained = s.chained := rfl

/-! ### the half-bit flag -/

@[simp] theorem State.raiseHb_params (s : State) : (s.raiseHb).params = s.params := rfl
@[simp] theorem State.raiseHb_state (s : State) : (s.raiseHb).state = s.state := rfl
@[simp] theorem State.raiseHb_busy (s : State) : (s.raiseHb).busy = s.busy := rfl
@[simp] theorem State.raiseHb_hbIdx (s : State) : (s.raiseHb).hbIdx = s.hbIdx := rfl
@[simp] theorem State.raiseHb_pol (s : State) : (s.raiseHb).pol = s.pol := rfl
@[simp] theorem State.raiseHb_fwd (s : State) : (s.raiseHb).fwd = s.fwd := rfl
@[simp] theorem State.raiseHb_bfAcc (s : State) : (s.raiseHb).bfAcc = s.bfAcc := rfl
@[simp] theorem State.raiseHb_bfDone (s : State) : (s.raiseHb).bfDone = s.bfDone := rfl
@[simp] theorem State.raiseHb_prev (s : State) : (s.raiseHb).prev = s.prev := rfl
@[simp] theorem State.raiseHb_tHigh (s : State) : (s.raiseHb).tHigh = s.tHigh := rfl
@[simp] theorem State.raiseHb_tLow (s : State) : (s.raiseHb).tLow = s.tLow := rfl
@[simp] theorem State.raiseHb_lastLevel (s : State) : (s.raiseHb).lastLevel = s.lastLevel := rfl
@[simp] theorem State.raiseHb_answer (s : State) : (s.raiseHb).answer = s.answer := rfl
@[simp] theorem State.raiseHb_answerValid (s : State) : (s.raiseHb).answerValid = s.answerValid := rfl
@[simp] theorem State.raiseHb_err (s : State) : (s.raiseHb).err = s.err := rfl
@[simp] theorem State.raiseHb_cnt (s : State) : (s.raiseHb).cnt = s.cnt := rfl
@[simp] theorem State.raiseHb_irHb (s : State) : (s.raiseHb).irHb = true := rfl
@[simp] theorem State.raiseHb_irStop (s : State) : (s.raiseHb).irStop = s.irStop := rfl
@[simp] theorem State.raiseHb_irCap (s : State) : (s.raiseHb).irCap = s.irCap := rfl
@[simp] theorem State.raiseHb_capVal (s : State) : (s.raiseHb).capVal = s.capVal := rfl
@[simp] theorem State.raiseHb_rx (s : State) : (s.raiseHb).rx = s.rx := rfl
@[simp] theorem State.raiseHb_prevRx (s : State) : (s.raiseHb).prevRx = s.prevRx := rfl
@[simp] theorem State.raiseHb_result (s : State) : (s.raiseHb).result = s.result := rfl
@[simp] theorem State.raiseHb_env (s : State) : (s.raiseHb).env = s.env := rfl
@[simp] theorem State.raiseHb_chained (s : State) : (s.raiseHb).chained = s.chained := rfl

/-! ### the stop flag -/

@[simp] theorem State.raiseStop_params (s : State) : (s.raiseStop).params = s.params := rfl
@[simp] theorem State.raiseStop_state (s : State) : (s.raiseStop).state = s.state := rfl
@[simp] theorem State.raiseStop_busy (s : State) : (s.raiseStop).busy = s.busy := rfl
@[simp] theorem State.raiseStop_hbIdx (s : State) : (s.raiseStop).hbIdx = s.hbIdx := rfl
@[simp] theorem State.raiseStop_pol (s : State) : (s.raiseStop).pol = s.pol := rfl
@[simp] theorem State.raiseStop_fwd (s : State) : (s.raiseStop).fwd = s.fwd := rfl
@[simp] theorem State.raiseStop_bfAcc (s : State) : (s.raiseStop).bfAcc = s.bfAcc := rfl
@[simp] theorem State.raiseStop_bfDone (s : State) : (s.raiseStop).bfDone = s.bfDone := rfl
@[simp] theorem State.raiseStop_prev (s : State) : (s.raiseStop).prev = s.prev := rfl
@[simp] theorem State.raiseStop_tHigh (s : State) : (s.raiseStop).tHigh = s.tHigh := rfl
@[simp] theorem State.raiseStop_tLow (s : State) : (s.raiseStop).tLow = s.tLow := rfl
@[simp] theorem State.raiseStop_lastLevel (s : State) : (s.raiseStop).lastLevel = s.lastLevel := rfl
@[simp] theorem State.raiseStop_answer (s : State) : (s.raiseStop).answer = s.answer := rfl
@[simp] theorem State.raiseStop_answerValid (s : State) : (s.raiseStop).answerValid = s.answerValid := rfl
@[simp] theorem State.raiseStop_err (s : State) : (s.raiseStop).err = s.err := rfl
@[simp] theorem State.raiseStop_cnt (s : State) : (s.raiseStop).cnt = s.cnt := rfl
@[simp] theorem State.raiseStop_irHb (s : State) : (s.raiseStop).irHb = s.irHb := rfl
@[simp] theorem State.raiseStop_irStop (s : State) : (s.raiseStop).irStop = true := rfl
@[simp] theorem State.raiseStop_irCap (s : State) : (s.raiseStop).irCap = s.irCap := rfl
@[simp] theorem State.raiseStop_capVal (s : State) : (s.raiseStop).capVal = s.capVal := rfl
@[simp] theorem State.raiseStop_rx (s : State) : (s.raiseStop).rx = s.rx := rfl
@[simp] theorem State.raiseStop_prevRx (s : State) : (s.raiseStop).prevRx = s.prevRx := rfl
@[simp] theorem State.raiseStop_result (s : State) : (s.raiseStop).result = s.result := rfl
@[simp] theorem State.raiseStop_env (s : State) : (s.raiseStop).env = s.env := rfl
@[simp] theorem State.raiseStop_chained (s : State) : (s.raiseStop).chained = s.chained := rfl

/-! ### a delivered capture -/

@[simp] theorem State.deliverCap_params (s : State) (v : Level) (n : Nat) : (s.deliverCap v n).params = s.params := rfl
@[simp] theorem State.deliverCap_state (s : State) (v : Level) (n : Nat) : (s.deliverCap v n).state = s.state := rfl
@[simp] theorem State.deliverCap_busy (s : State) (v : Level) (n : Nat) : (s.deliverCap v n).busy = s.busy := rfl
@[simp] theorem State.deliverCap_hbIdx (s : State) (v : Level) (n : Nat) : (s.deliverCap v n).hbIdx = s.hbIdx := rfl
@[simp] theorem State.deliverCap_pol (s : State) (v : Level) (n : Nat) : (s.deliverCap v n).pol = s.pol := rfl
@[simp] theorem State.deliverCap_fwd (s : State) (v : Level) (n : Nat) : (s.deliverCap v n).fwd = s.fwd := rfl
@[simp] theorem State.deliverCap_bfAcc (s : State) (v : Level) (n : Nat) : (s.deliverCap v n).bfAcc = s.bfAcc := rfl
@[simp] theorem State.deliverCap_bfDone (s : State) (v : Level) (n : Nat) : (s.deliverCap v n).bfDone = s.bfDone := rfl
@[simp] theorem State.deliverCap_prev (s : State) (v : Level) (n : Nat) : (s.deliverCap v n).prev = s.prev := rfl
@[simp] theorem State.deliverCap_tHigh (s : State) (v : Level) (n : Nat) : (s.deliverCap v n).tHigh = s.tHigh := rfl
@[simp] theorem State.deliverCap_tLow (s : State) (v : Level) (n : Nat) : (s.deliverCap v n).tLow = s.tLow := rfl
@[simp] theorem State.deliverCap_lastLevel (s : State) (v : Level) (n : Nat) : (s.deliverCap v n).lastLevel = s.lastLevel := rfl
@[simp] theorem State.deliverCap_answer (s : State) (v : Level) (n : Nat) : (s.deliverCap v n).answer = s.answer := rfl
@[simp] theorem State.deliverCap_answerValid (s : State) (v : Level) (n : Nat) : (s.deliverCap v n).answerValid = s.answerValid := rfl
@[simp] theorem State.deliverCap_err (s : State) (v : Level) (n : Nat) : (s.deliverCap v n).err = s.err := rfl
@[simp] theorem State.deliverCap_cnt (s : State) (v : Level) (n : Nat) : (s.deliverCap v n).cnt = s.cnt := rfl
@[simp] theorem State.deliverCap_irHb (s : State) (v : Level) (n : Nat) : (s.deliverCap v n).irHb = s.irHb := rfl
@[simp] theorem State.deliverCap_irStop (s : State) (v : Level) (n : Nat) : (s.deliverCap v n).irStop = s.irStop := rfl
@[simp] theorem State.deliverCap_irCap (s : State) (v : Level) (n : Nat) : (s.deliverCap v n).irCap = true := rfl
@[simp] theorem State.deliverCap_capVal (s : State) (v : Level) (n : Nat) : (s.deliverCap v n).capVal = n % 2 ^ s.params.timerW := rfl
@[simp] theorem State.deliverCap_rx (s : State) (v : Level) (n : Nat) : (s.deliverCap v n).rx = v := rfl
@[simp] theorem State.deliverCap_prevRx (s : State) (v : Level) (n : Nat) : (s.deliverCap v n).prevRx = s.prevRx := rfl
@[simp] theorem State.deliverCap_result (s : State) (v : Level) (n : Nat) : (s.deliverCap v n).result = s.result := rfl
@[simp] theorem State.deliverCap_env (s : State) (v : Level) (n : Nat) : (s.deliverCap v n).env = s.env := rfl
@[simp] theorem State.deliverCap_chained (s : State) (v : Level) (n : Nat) : (s.deliverCap v n).chained = s.chained := rfl

/-! ### count -/

@[simp] theorem State.count_params (s : State) : s.count.params = s.params := by unfold State.count; split <;> rfl
@[simp] theorem State.count_state (s : State) : s.count.state = s.state := by unfold State.count; split <;> rfl
@[simp] theorem State.count_busy (s : State) : s.count.busy = s.busy := by unfold State.count; split <;> rfl
@[simp] theorem State.count_hbIdx (s : State) : s.count.hbIdx = s.hbIdx := by unfold State.count; split <;> rfl
@[simp] theorem State.count_pol (s : State) : s.count.pol = s.pol := by unfold State.count; split <;> rfl
@[simp] theorem State.count_fwd (s : State) : s.count.fwd = s.fwd := by unfold State.count; split <;> rfl
@[simp] theorem State.count_bfAcc (s : State) : s.count.bfAcc = s.bfAcc := by unfold State.count; split <;> rfl
@[simp] theorem State.count_bfDone (s : State) : s.count.bfDone = s.bfDone := by unfold State.count; split <;> rfl
@[simp] theorem State.count_prev (s : State) : s.count.prev = s.prev := by unfold State.count; split <;> rfl
@[simp] theorem State.count_tHigh (s : State) : s.count.tHigh = s.tHigh := by unfold State.count; split <;> rfl
@[simp] theorem State.count_tLow (s : State) : s.count.tLow = s.tLow := by unfold State.count; split <;> rfl
@[simp] theorem State.count_lastLevel (s : State) : s.count.lastLevel = s.lastLevel := by unfold State.count; split <;> rfl
@[simp] theorem State.count_answer (s : State) : s.count.answer = s.answer := by unfold State.count; split <;> rfl
@[simp] theorem State.count_answerValid (s : State) : s.count.answerValid = s.answerValid := by unfold State.count; split <;> rfl
@[simp] theorem State.count_err (s : State) : s.count.err = s.err := by unfold State.count; split <;> rfl
theorem State.count_cnt (s : State) : s.count.cnt = if s.run then (s.cnt + 1) % 2 ^ s.params.timerW else s.cnt := by
  unfold State.count; split <;> simp [*]
@[simp] theorem State.count_irHb (s : State) : s.count.irHb = s.irHb := by unfold State.count; split <;> rfl
@[simp] theorem State.count_irStop (s : State) : s.count.irStop = s.irStop := by unfold State.count; split <;> rfl
@[simp] theorem State.count_irCap (s : State) : s.count.irCap = s.irCap := by unfold State.count; split <;> rfl
@[simp] theorem State.count_capVal (s : State) : s.count.capVal = s.capVal := by unfold State.count; split <;> rfl
@[simp] theorem State.count_rx (s : State) : s.count.rx = s.rx := by unfold State.count; split <;> rfl
@[simp] theorem State.count_prevRx (s : State) : s.count.prevRx = s.prevRx := by unfold State.count; split <;> rfl
@[simp] theorem State.count_result (s : State) : s.count.result = s.result := by unfold State.count; split <;> rfl
@[simp] theorem State.count_env (s : State) : s.count.env = s.env := by unfold State.count; split <;> rfl
@[simp] theorem State.count_chained (s : State) : s.count.chained = s.chained := by unfold State.count; split <;> rfl

/-! ### compareHb -/

@[simp] theorem State.compareHb_params (s : State) : s.compareHb.params = s.params := by unfold State.compareHb; split <;> rfl
@[simp] theorem State.compareHb_state (s : State) : s.compareHb.state = s.state := by unfold State.compareHb; split <;> rfl
@[simp] theorem State.compareHb_busy (s : State) : s.compareHb.busy = s.busy := by unfold State.compareHb; split <;> rfl
@[simp] theorem State.compareHb_hbIdx (s : State) : s.compareHb.hbIdx = s.hbIdx := by unfold State.compareHb; split <;> rfl
@[simp] theorem State.compareHb_pol (s : State) : s.compareHb.pol = s.pol := by unfold State.compareHb; split <;> rfl
@[simp] theorem State.compareHb_fwd (s : State) : s.compareHb.fwd = s.fwd := by unfold State.compareHb; split <;> rfl
@[simp] theorem State.compareHb_bfAcc (s : State) : s.compareHb.bfAcc = s.bfAcc := by unfold State.compareHb; split <;> rfl
@[simp] theorem State.compareHb_bfDone (s : State) : s.compareHb.bfDone = s.bfDone := by unfold State.compareHb; split <;> rfl
@[simp] theorem State.compareHb_prev (s : State) : s.compareHb.prev = s.prev := by unfold State.compareHb; split <;> rfl
@[simp] theorem State.compareHb_tHigh (s : State) : s.compareHb.tHigh = s.tHigh := by unfold State.compareHb; split <;> rfl
@[simp] theorem State.compareHb_tLow (s : State) : s.compareHb.tLow = s.tLow := by unfold State.compareHb; split <;> rfl
@[simp] theorem State.compareHb_lastLevel (s : State) : s.compareHb.lastLevel = s.lastLevel := by unfold State.compareHb; split <;> rfl
@[simp] theorem State.compareHb_answer (s : State) : s.compareHb.answer = s.answer := by unfold State.compareHb; split <;> rfl
@[simp] theorem State.compareHb_answerValid (s : State) : s.compareHb.answerValid = s.answerValid := by unfold State.compareHb; split <;> rfl
@[simp] theorem State.compareHb_err (s : State) : s.compareHb.err = s.err := by unfold State.compareHb; split <;> rfl
@[simp] theorem State.compareHb_cnt (s : State) : s.compareHb.cnt = s.cnt := by unfold State.compareHb; split <;> rfl
theorem State.compareHb_irHb (s : State) : s.compareHb.irHb = (s.irHb || decide (s.hbEn = true ∧ s.cnt = s.mrHb)) := by
  unfold State.compareHb; split <;> simp [*]
@[simp] theorem State.compareHb_irStop (s : State) : s.compareHb.irStop = s.irStop := by unfold State.compareHb; split <;> rfl
@[simp] theorem State.compareHb_irCap (s : State) : s.compareHb.irCap = s.irCap := by unfold State.compareHb; split <;> rfl
@[simp] theorem State.compareHb_capVal (s : State) : s.compareHb.capVal = s.capVal := by unfold State.compareHb; split <;> rfl
@[simp] theorem State.compareHb_rx (s : State) : s.compareHb.rx = s.rx := by unfold State.compareHb; split <;> rfl
@[simp] theorem State.compareHb_prevRx (s : State) : s.compareHb.prevRx = s.prevRx := by unfold State.compareHb; split <;> rfl
@[simp] theorem State.compareHb_result (s : State) : s.compareHb.result = s.result := by unfold State.compareHb; split <;> rfl
@[simp] theorem State.compareHb_env (s : State) : s.compareHb.env = s.env := by unfold State.compareHb; split <;> rfl
@[simp] theorem State.compareHb_chained (s : State) : s.compareHb.chained = s.chained := by unfold State.compareHb; split <;> rfl

/-! ### compareStop -/

@[simp] theorem State.compareStop_params (s : State) : s.compareStop.params = s.params := by unfold State.compareStop; split <;> rfl
@[simp] theorem State.compareStop_state (s : State) : s.compareStop.state = s.state := by unfold State.compareStop; split <;> rfl
@[simp] theorem State.compareStop_busy (s : State) : s.compareStop.busy = s.busy := by unfold State.compareStop; split <;> rfl
@[simp] theorem State.compareStop_hbIdx (s : State) : s.compareStop.hbIdx = s.hbIdx := by unfold State.compareStop; split <;> rfl
@[simp] theorem State.compareStop_pol (s : State) : s.compareStop.pol = s.pol := by unfold State.compareStop; split <;> rfl
@[simp] theorem State.compareStop_fwd (s : State) : s.compareStop.fwd = s.fwd := by unfold State.compareStop; split <;> rfl
@[simp] theorem State.compareStop_bfAcc (s : State) : s.compareStop.bfAcc = s.bfAcc := by unfold State.compareStop; split <;> rfl
@[simp] theorem State.compareStop_bfDone (s : State) : s.compareStop.bfDone = s.bfDone := by unfold State.compareStop; split <;> rfl
@[simp] theorem State.compareStop_prev (s : State) : s.compareStop.prev = s.prev := by unfold State.compareStop; split <;> rfl
@[simp] theorem State.compareStop_tHigh (s : State) : s.compareStop.tHigh = s.tHigh := by unfold State.compareStop; split <;> rfl
@[simp] theorem State.compareStop_tLow (s : State) : s.compareStop.tLow = s.tLow := by unfold State.compareStop; split <;> rfl
@[simp] theorem State.compareStop_lastLevel (s : State) : s.compareStop.lastLevel = s.lastLevel := by unfold State.compareStop; split <;> rfl
@[simp] theorem State.compareStop_answer (s : State) : s.compareStop.answer = s.answer := by unfold State.compareStop; split <;> rfl
@[simp] theorem State.compareStop_answerValid (s : State) : s.compareStop.answerValid = s.answerValid := by unfold State.compareStop; split <;> rfl
@[simp] theorem State.compareStop_err (s : State) : s.compareStop.err = s.err := by unfold State.compareStop; split <;> rfl
@[simp] theorem State.compareStop_cnt (s : State) : s.compareStop.cnt = s.cnt := by unfold State.compareStop; split <;> rfl
@[simp] theorem State.compareStop_irHb (s : State) : s.compareStop.irHb = s.irHb := by unfold State.compareStop; split <;> rfl
theorem State.compareStop_irStop (s : State) : s.compareStop.irStop = (s.irStop || decide (s.stopEn = true ∧ s.cnt = s.mrStop)) := by
  unfold State.compareStop; split <;> simp [*]
@[simp] theorem State.compareStop_irCap (s : State) : s.compareStop.irCap = s.irCap := by unfold State.compareStop; split <;> rfl
@[simp] theorem State.compareStop_capVal (s : State) : s.compareStop.capVal = s.capVal := by unfold State.compareStop; split <;> rfl
@[simp] theorem State.compareStop_rx (s : State) : s.compareStop.rx = s.rx := by unfold State.compareStop; split <;> rfl
@[simp] theorem State.compareStop_prevRx (s : State) : s.compareStop.prevRx = s.prevRx := by unfold State.compareStop; split <;> rfl
@[simp] theorem State.compareStop_result (s : State) : s.compareStop.result = s.result := by unfold State.compareStop; split <;> rfl
@[simp] theorem State.compareStop_env (s : State) : s.compareStop.env = s.env := by unfold State.compareStop; split <;> rfl
@[simp] theorem State.compareStop_chained (s : State) : s.compareStop.chained = s.chained := by unfold State.compareStop; split <;> rfl

/-! ### capture -/

@[simp] theorem State.capture_params (s : State) : s.capture.params = s.params := by unfold State.capture; split <;> rfl
@[simp] theorem State.capture_state (s : State) : s.capture.state = s.state := by unfold State.capture; split <;> rfl
@[simp] theorem State.capture_busy (s : State) : s.capture.busy = s.busy := by unfold State.capture; split <;> rfl
@[simp] theorem State.capture_hbIdx (s : State) : s.capture.hbIdx = s.hbIdx := by unfold State.capture; split <;> rfl
@[simp] theorem State.capture_pol (s : State) : s.capture.pol = s.pol := by unfold State.capture; split <;> rfl
@[simp] theorem State.capture_fwd (s : State) : s.capture.fwd = s.fwd := by unfold State.capture; split <;> rfl
@[simp] theorem State.capture_bfAcc (s : State) : s.capture.bfAcc = s.bfAcc := by unfold State.capture; split <;> rfl
@[simp] theorem State.capture_bfDone (s : State) : s.capture.bfDone = s.bfDone := by unfold State.capture; split <;> rfl
@[simp] theorem State.capture_prev (s : State) : s.capture.prev = s.prev := by unfold State.capture; split <;> rfl
@[simp] theorem State.capture_tHigh (s : State) : s.capture.tHigh = s.tHigh := by unfold State.capture; split <;> rfl
@[simp] theorem State.capture_tLow (s : State) : s.capture.tLow = s.tLow := by unfold State.capture; split <;> rfl
@[simp] theorem State.capture_lastLevel (s : State) : s.capture.lastLevel = s.lastLevel := by unfold State.capture; split <;> rfl
@[simp] theorem State.capture_answer (s : State) : s.capture.answer = s.answer := by unfold State.capture; split <;> rfl
@[simp] theorem State.capture_answerValid (s : State) : s.capture.answerValid = s.answerValid := by unfold State.capture; split <;> rfl
@[simp] theorem State.capture_err (s : State) : s.capture.err = s.err := by unfold State.capture; split <;> rfl
@[simp] theorem State.capture_cnt (s : State) : s.capture.cnt = s.cnt := by unfold State.capture; split <;> rfl
@[simp] theorem State.capture_irHb (s : State) : s.capture.irHb = s.irHb := by unfold State.capture; split <;> rfl
@[simp] theorem State.capture_irStop (s : State) : s.capture.irStop = s.irStop := by unfold State.capture; split <;> rfl
theorem State.capture_irCap (s : State) : s.capture.irCap = (s.irCap || decide (s.rx ≠ s.prevRx ∧ s.capEn = true)) := by
  unfold State.capture; split <;> simp [*]
theorem State.capture_capVal (s : State) : s.capture.capVal = if s.rx ≠ s.prevRx ∧ s.capEn = true then s.cnt else s.capVal := by
  unfold State.capture; split <;> simp [*]
@[simp] theorem State.capture_rx (s : State) : s.capture.rx = s.rx := by unfold State.capture; split <;> rfl
@[simp] theorem State.capture_prevRx (s : State) : s.capture.prevRx = s.rx := by unfold State.capture; split <;> rfl
@[simp] theorem State.capture_result (s : State) : s.capture.result = s.result := by unfold State.capture; split <;> rfl
@[simp] theorem State.capture_env (s : State) : s.capture.env = s.env := by unfold State.capture; split <;> rfl
@[simp] theorem State.capture_chained (s : State) : s.capture.chained = s.chained := by unfold State.capture; split <;> rfl

/-! ### a tick -/

@[simp] theorem State.tick_params (s : State) (v : Level) : (s.tick v).params = s.params := by simp [State.tick]
@[simp] theorem State.tick_state (s : State) (v : Level) : (s.tick v).state = s.state := by simp [State.tick]
@[simp] theorem State.tick_busy (s : State) (v : Level) : (s.tick v).busy = s.busy := by simp [State.tick]
@[simp] theorem State.tick_hbIdx (s : State) (v : Level) : (s.tick v).hbIdx = s.hbIdx := by simp [State.tick]
@[simp] theorem State.tick_pol (s : State) (v : Level) : (s.tick v).pol = s.pol := by simp [State.tick]
@[simp] theorem State.tick_fwd (s : State) (v : Level) : (s.tick v).fwd = s.fwd := by simp [State.tick]
@[simp] theorem State.tick_bfAcc (s : State) (v : Level) : (s.tick v).bfAcc = s.bfAcc := by simp [State.tick]
@[simp] theorem State.tick_bfDone (s : State) (v : Level) : (s.tick v).bfDone = s.bfDone := by simp [State.tick]
@[simp] theorem State.tick_prev (s : State) (v : Level) : (s.tick v).prev = s.prev := by simp [State.tick]
@[simp] theorem State.tick_tHigh (s : State) (v : Level) : (s.tick v).tHigh = s.tHigh := by simp [State.tick]
@[simp] theorem State.tick_tLow (s : State) (v : Level) : (s.tick v).tLow = s.tLow := by simp [State.tick]
@[simp] theorem State.tick_lastLevel (s : State) (v : Level) : (s.tick v).lastLevel = s.lastLevel := by simp [State.tick]
@[simp] theorem State.tick_answer (s : State) (v : Level) : (s.tick v).answer = s.answer := by simp [State.tick]
@[simp] theorem State.tick_answerValid (s : State) (v : Level) : (s.tick v).answerValid = s.answerValid := by simp [State.tick]
@[simp] theorem State.tick_err (s : State) (v : Level) : (s.tick v).err = s.err := by simp [State.tick]
@[simp] theorem State.tick_rx (s : State) (v : Level) : (s.tick v).rx = v := by simp [State.tick]
@[simp] theorem State.tick_prevRx (s : State) (v : Level) : (s.tick v).prevRx = v := by simp [State.tick]
@[simp] theorem State.tick_result (s : State) (v : Level) : (s.tick v).result = s.result := by simp [State.tick]
@[simp] theorem State.tick_env (s : State) (v : Level) : (s.tick v).env = s.env := by simp [State.tick]
@[simp] theorem State.tick_chained (s : State) (v : Level) : (s.tick v).chained = s.chained := by simp [State.tick]

/-- The counter after a tick (R213). -/
theorem State.tick_cnt (s : State) (v : Level) :
    (s.tick v).cnt = if s.run then (s.cnt + 1) % 2 ^ s.params.timerW else s.cnt := by
  simp [State.tick, State.count_cnt, State.run]

/-- The half-bit match after a tick (R214), in terms of the counter after it. -/
theorem State.tick_irHb (s : State) (v : Level) :
    (s.tick v).irHb = (s.irHb || decide (s.hbEn = true ∧ (s.tick v).cnt = s.mrHb)) := by
  simp [State.tick, State.compareHb_irHb, State.hbEn, State.mrHb]

/-- The stop match after a tick (R215). -/
theorem State.tick_irStop (s : State) (v : Level) :
    (s.tick v).irStop = (s.irStop || decide (s.stopEn = true ∧ (s.tick v).cnt = s.mrStop)) := by
  simp [State.tick, State.compareStop_irStop, State.stopEn, State.mrStop]

/-- The capture flag after a tick (R216). -/
theorem State.tick_irCap (s : State) (v : Level) :
    (s.tick v).irCap = (s.irCap || decide (v ≠ s.prevRx ∧ s.capEn = true)) := by
  simp [State.tick, State.capture_irCap, State.capEn]

/-- The capture value after a tick (R216). -/
theorem State.tick_capVal (s : State) (v : Level) :
    (s.tick v).capVal = if v ≠ s.prevRx ∧ s.capEn = true then (s.tick v).cnt else s.capVal := by
  simp [State.tick, State.capture_capVal, State.capEn]

end Sys2Proof.Machine
end

