-- ==== Sys2Proof/Laws/Exec.lean ====
section
/-! SUPPORT. What executing an operation can do, once: every next state of `exec` is one of the effects below, each over
the named updates. -/

namespace Sys2Proof.Machine

/-- The effects of the decode step's rows (R133 to R143), in the state `u` that holds the new low interval. -/
inductive RowEffect (u : State) : State → Prop where
  /-- An INVALID interval or an ERROR row. -/
  | error (c : BitVec 3) (hc : c = errBadHigh ∨ c = errBadLow ∨ c = errProtocol) : RowEffect u (u.recordError c)
  /-- DEC_0SS. -/
  | zero (hp : u.prev = false) : RowEffect u (u.shiftIn false)
  /-- DEC_1SS. -/
  | one (hp : u.prev = true) : RowEffect u (u.shiftIn true)
  /-- DEC_1SL. -/
  | oneZero (hp : u.prev = true) : RowEffect u ((u.shiftIn false).setPrev false)
  /-- DEC_0LS and DEC_1LL. -/
  | zeroOne : RowEffect u (((u.shiftIn false).shiftIn true).setPrev true)

/-- The effects of the operations on a state `s`, with the conditions they had. -/
inductive Effect (s : State) : Instr → State → Prop where
  /-- START. -/
  | start (f : BitVec 16) (hl : s.Legal) (hb : s.busy = false) :
      Effect s (.start f) ((s.startTransfer f).answerWith (.start true))
  /-- START_REJ, READ_STATUS, CLASSIFY: only a result. -/
  | result (i : Instr) (r : Result) : Effect s i (s.answerWith r)
  /-- RESET. -/
  | reset (x : BitVec 16) : Effect s (.reset x) s.resetAll
  /-- The encoder's slots 0 to 43. -/
  | slot (i : Instr) (hl : s.Legal) (he : s.EvHb) (hs : s.state = stSending) (hi : s.hbIdx.toNat ≤ 43) :
      Effect s i (s.enterHb.emit (encPol s.fwd s.hbIdx.toNat))
  /-- ENC_TURN. -/
  | turn (hl : s.Legal) (he : s.EvHb) (hs : s.state = stSending) (hi : s.hbIdx = 44) :
      Effect s .encTurn s.enterHb.turnAround
  /-- ENC_END. -/
  | finish (hl : s.Legal) (he : s.EvHb) (hs : s.state = stReceiving) : Effect s .encEnd s.enterHb.endTransfer
  /-- HB_IDLE. -/
  | hbIdle (hl : s.Legal) (he : s.EvHb) (hs : s.state = stIdle) : Effect s .hbIdle s.enterHb
  /-- STOP_IGNORE. -/
  | stopIgnore (hl : s.Legal) (he : s.EvStop) (hf : ¬ s.InFrame) : Effect s .stopIgnore s.enterStop
  /-- EOF_DETECT with a data bit. -/
  | complete (hl : s.Legal) (he : s.EvStop) (hf : s.InFrame) (h2 : 2 ≤ s.bfAcc) :
      Effect s .eofDetect s.enterStop.markDone
  /-- EOF_DETECT with the start bit alone. -/
  | discard (hl : s.Legal) (he : s.EvStop) (hf : s.InFrame) (h2 : ¬ 2 ≤ s.bfAcc) :
      Effect s .eofDetect s.enterStop.clearBf
  /-- CAP_IGNORE. -/
  | capIgnore (hl : s.Legal) (he : s.EvCap) (hf : s.state ≠ stReceiving ∨ s.bfDone = true) :
      Effect s .capIgnore s.enterCap
  /-- CAP_FALL. -/
  | fall (hl : s.Legal) (he : s.EvCap) (hs : s.state = stReceiving) (hd : s.bfDone = false) :
      Effect s .capFall s.enterCap.recordHigh
  /-- CAP_SEED. -/
  | seed (hl : s.Legal) (he : s.EvCap) (hs : s.state = stReceiving) (ha : s.bfAcc = 0) (hd : s.bfDone = false) :
      Effect s .capSeed s.enterCap.recordLow.seed
  /-- CAP_ORDER. -/
  | order (hl : s.Legal) (he : s.EvCap) (hs : s.state = stReceiving) (hd : s.bfDone = false) :
      Effect s .capOrder (s.enterCap.recordError errOrder).sampleLevel
  /-- CAP_DECODE. -/
  | decode (t : State) (hl : s.Legal) (he : s.EvCap) (hf : s.InFrame) (hr : RowEffect s.enterCap.recordLow t) :
      Effect s .capDecode t
  /-- A row of the decode step by itself. -/
  | row (i : Instr) (t : State) (hl : s.Legal) (hf : s.InFrame) (hr : RowEffect s t) : Effect s i t

variable {s t : State}

/-- A row answers the state it names when a frame is in progress. -/
theorem decodeRow_effect {i : Instr} {p : Bool} {h l : IntervalClass} {u : State} (hx : decodeRow s p h l u = .next t)
    (hr : s.prev = p → RowEffect s u) : Effect s i t := by
  obtain ⟨hl, ⟨hf, hp, -⟩, rfl⟩ := decodeRow_eq_next.mp hx
  exact .row i _ hl hf (hr hp)

theorem execDecBadLow_eq_next {p : Bool} {h : IntervalClass} :
    execDecBadLow p h s = .next t ↔ h ≠ .invalid ∧ decodeRow s p h .invalid (s.recordError errBadLow) = .next t := by
  unfold execDecBadLow
  by_cases hi : h = .invalid <;> simp [hi]

/-- The decode step is one of the rows. -/
theorem decodeStep_rowEffect (h : decodeStep s = .next t) : s.Legal ∧ s.InFrame ∧ RowEffect s t := by
  rw [decodeStep_eq_exec] at h
  cases hh : s.highClass <;> cases hl : s.lowClass <;> cases hp : s.prev <;>
    simp only [hh, hl, hp, selectRow, exec, execDecBadHigh, execDecBadLow_eq_next, execDec0SS, execDec0SL, execDec0LS,
      execDec0LL, execDec1SS, execDec1SL, execDec1LS, execDec1LL, ne_eq, reduceCtorEq, not_false_eq_true, true_and,
      decodeRow_eq_next] at h <;>
    obtain ⟨hL, ⟨hF, -⟩, rfl⟩ := h <;>
    refine ⟨hL, hF, ?_⟩ <;>
    first
      | exact .error _ (by simp)
      | exact .zero hp
      | exact .one hp
      | exact .oneZero hp
      | exact .zeroOne

/-- Every next state of `exec` is one of the effects. -/
theorem exec_effect {i : Instr} (h : exec i s = .next t) : Effect s i t := by
  cases i with
  | start f => obtain ⟨hl, hb, rfl⟩ := execStart_eq_next.mp h; exact .start f hl hb
  | startRej f => obtain ⟨-, -, rfl⟩ := (execStartRej_eq_next (f := f)).mp h; exact .result _ _
  | readStatus x => obtain ⟨-, rfl⟩ := (execReadStatus_eq_next (x := x)).mp h; exact .result _ _
  | reset x => have := (execReset_eq_next (x := x)).mp h; subst this; exact .reset x
  | classify k => have := execClassify_eq_next.mp h; subst this; exact .result _ _
  | encStart2 =>
    obtain ⟨hl, ⟨he, hs, hi⟩, rfl⟩ := execEncStart2_eq_next.mp h
    have := Effect.slot .encStart2 hl he hs (by rw [hi]; decide)
    rwa [hi] at this
  | encData1 k =>
    obtain ⟨hl, ⟨he, hs, hi, h1, h2⟩, rfl⟩ := execEncData1_eq_next.mp h
    have := Effect.slot (.encData1 k) hl he hs (by rw [hi]; omega)
    rwa [hi, encPol, if_neg (by omega), if_pos (by omega), if_pos h1] at this
  | encData2 k =>
    obtain ⟨hl, ⟨he, hs, hi, h1, h2, h3⟩, rfl⟩ := execEncData2_eq_next.mp h
    have := Effect.slot (.encData2 k) hl he hs (by rw [hi]; omega)
    rw [hi, encPol, if_neg (by omega), if_pos (by omega), if_neg (by omega), frameBit, ceilHalf] at this
    rwa [show (k.toNat + 1) / 2 = k.toNat / 2 by omega] at this
  | encStop =>
    obtain ⟨hl, ⟨he, hs, hi⟩, rfl⟩ := execEncStop_eq_next.mp h
    have := Effect.slot .encStop hl he hs (by rw [hi]; decide)
    rwa [hi] at this
  | encSettle k =>
    obtain ⟨hl, ⟨he, hs, hi, h1, h2⟩, rfl⟩ := execEncSettle_eq_next.mp h
    have := Effect.slot (.encSettle k) hl he hs (by rw [hi]; omega)
    rwa [hi, encPol, if_neg (by omega), if_neg (by omega)] at this
  | encTurn => obtain ⟨hl, ⟨he, hs, hi⟩, rfl⟩ := execEncTurn_eq_next.mp h; exact .turn hl he hs hi
  | encEnd => obtain ⟨hl, ⟨he, hs⟩, rfl⟩ := execEncEnd_eq_next.mp h; exact .finish hl he hs
  | hbIdle => obtain ⟨hl, ⟨he, hs⟩, rfl⟩ := execHbIdle_eq_next.mp h; exact .hbIdle hl he hs
  | eofDetect =>
    obtain ⟨hl, ⟨he, hf⟩, rfl⟩ := execEofDetect_eq_next.mp h
    by_cases h2 : 2 ≤ s.bfAcc
    · rw [if_pos h2]; exact .complete hl he hf h2
    · rw [if_neg h2]; exact .discard hl he hf h2
  | stopIgnore => obtain ⟨hl, ⟨he, hf⟩, rfl⟩ := execStopIgnore_eq_next.mp h; exact .stopIgnore hl he hf
  | capFall => obtain ⟨hl, ⟨he, -, hs, hd, -⟩, rfl⟩ := execCapFall_eq_next.mp h; exact .fall hl he hs hd
  | capSeed => obtain ⟨hl, ⟨he, -, hs, ha, hd, -⟩, rfl⟩ := execCapSeed_eq_next.mp h; exact .seed hl he hs ha hd
  | capDecode =>
    obtain ⟨hl, ⟨he, -, hf, -⟩, hx⟩ := execCapDecode_eq_next.mp h
    exact .decode _ hl he hf (decodeStep_rowEffect hx).2.2
  | capOrder => obtain ⟨hl, ⟨he, hs, hd, -⟩, rfl⟩ := execCapOrder_eq_next.mp h; exact .order hl he hs hd
  | capIgnore => obtain ⟨hl, ⟨he, hf⟩, rfl⟩ := execCapIgnore_eq_next.mp h; exact .capIgnore hl he hf
  | decBadHigh p l => exact decodeRow_effect h fun _ => .error _ (by simp)
  | decBadLow p c => exact decodeRow_effect (execDecBadLow_eq_next.mp h).2 fun _ => .error _ (by simp)
  | dec0SS => exact decodeRow_effect h fun hp => .zero hp
  | dec0SL => exact decodeRow_effect h fun _ => .error _ (by simp)
  | dec0LS => exact decodeRow_effect h fun _ => .zeroOne
  | dec0LL => exact decodeRow_effect h fun _ => .error _ (by simp)
  | dec1SS => exact decodeRow_effect h fun hp => .one hp
  | dec1SL => exact decodeRow_effect h fun hp => .oneZero hp
  | dec1LS => exact decodeRow_effect h fun _ => .error _ (by simp)
  | dec1LL => exact decodeRow_effect h fun _ => .zeroOne

end Sys2Proof.Machine
end

