-- ==== Sys2Proof/Laws/PerInstr.lean ====
section
/-! SUPPORT. The per-operation family EncodingMatchesRow: the encoded word of a well-formed operation has the fixed bits
that its row of spec/opcode_table.json asks for (R88). -/

namespace Sys2Proof.Laws.EncodingMatchesRow

/-- The value of a selector word, bit 0 the least significant. -/
def wordNat : SelWord → Nat
  | .cmd25 w => w.toNat
  | .dsel15 w => w.toNat
  | .dkey5 w => w.toNat
  | .interval32 w => w.toNat

/-- The mask of an operation's row. -/
def rowMask : Instr → Nat
  | .start _ => 0x1ff0000
  | .startRej _ => 0x1ff0000
  | .readStatus _ => 0xff0000
  | .reset _ => 0xff0000
  | .encStart2 => 0xff1
  | .encData1 _ => 0x871
  | .encData2 _ => 0x31
  | .encStop => 0xff1
  | .encSettle _ => 0x31
  | .encTurn => 0xff1
  | .encEnd => 0x31
  | .hbIdle => 0x31
  | .eofDetect => 0x3033
  | .stopIgnore => 0x3
  | .capFall => 0x603f
  | .capSeed => 0x703f
  | .capDecode => 0x703f
  | .capOrder => 0x2037
  | .capIgnore => 0x7
  | .decBadHigh _ _ => 0xc
  | .decBadLow _ _ => 0x3
  | .dec0SS => 0x1f
  | .dec0SL => 0x1f
  | .dec0LS => 0x1f
  | .dec0LL => 0x1f
  | .dec1SS => 0x1f
  | .dec1SL => 0x1f
  | .dec1LS => 0x1f
  | .dec1LL => 0x1f
  | .classify _ => 0x0

/-- The match value of an operation's row. -/
def rowMatch : Instr → Nat
  | .start _ => 0x10000
  | .startRej _ => 0x1010000
  | .readStatus _ => 0x20000
  | .reset _ => 0x30000
  | .encStart2 => 0x11
  | .encData1 _ => 0x51
  | .encData2 _ => 0x11
  | .encStop => 0x851
  | .encSettle _ => 0x11
  | .encTurn => 0xb11
  | .encEnd => 0x21
  | .hbIdle => 0x1
  | .eofDetect => 0x1022
  | .stopIgnore => 0x2
  | .capFall => 0x4024
  | .capSeed => 0x2c
  | .capDecode => 0x102c
  | .capOrder => 0x24
  | .capIgnore => 0x4
  | .decBadHigh _ _ => 0x0
  | .decBadLow _ _ => 0x0
  | .dec0SS => 0x5
  | .dec0SL => 0x9
  | .dec0LS => 0x6
  | .dec0LL => 0xa
  | .dec1SS => 0x15
  | .dec1SL => 0x19
  | .dec1LS => 0x16
  | .dec1LL => 0x1a
  | .classify _ => 0x0

/-- The encoded word, masked, is the row's match value. -/
abbrev Statement (i : Instr) : Prop := i.WellFormed → wordNat (encode i) &&& rowMask i = rowMatch i

/-- A CMD word has its op code and BUSY above the 16 operand bits, so masking the operand away leaves them. -/
theorem packCmd_and (b : Bool) (op : BitVec 8) (x : BitVec 16) (m : Nat) :
    (packCmd b (cmdWord op x)).toNat &&& (m <<< 16) = (((b.toNat <<< 8) ||| op.toNat) &&& m) <<< 16 := by
  apply Nat.eq_of_testBit_eq
  intro k
  simp only [packCmd, cmdWord, BitVec.toNat_append, BitVec.toNat_ofBool, Nat.testBit_and, Nat.testBit_or,
    Nat.testBit_shiftLeft]
  by_cases h : 16 ≤ k
  · have hx : x.toNat.testBit k = false := Nat.testBit_lt_two_pow (lt_of_lt_of_le x.isLt (Nat.pow_le_pow_right (by decide) h))
    have h8 : 8 ≤ k - 16 ↔ 24 ≤ k := by omega
    have h9 : k - 16 - 8 = k - 24 := by omega
    simp [h, hx, h8, h9]
  · simp [h]

theorem start (f : BitVec 16) : Statement (.start f) := by
  intro _
  have h := packCmd_and false 0x01 f 0x1ff
  simpa [wordNat, encode, rowMask, rowMatch] using h

theorem startRej (f : BitVec 16) : Statement (.startRej f) := by
  intro _
  have h := packCmd_and true 0x01 f 0x1ff
  simpa [wordNat, encode, rowMask, rowMatch] using h

theorem readStatus (x : BitVec 16) : Statement (.readStatus x) := by
  intro _
  have h := packCmd_and false 0x02 x 0xff
  simpa [wordNat, encode, rowMask, rowMatch] using h

theorem reset (x : BitVec 16) : Statement (.reset x) := by
  intro _
  have h := packCmd_and false 0x03 x 0xff
  simpa [wordNat, encode, rowMask, rowMatch] using h

theorem encStart2 : Statement .encStart2 := by decide

theorem encData1 (i : BitVec 6) : Statement (.encData1 i) := by revert i; decide

theorem encData2 (i : BitVec 6) : Statement (.encData2 i) := by revert i; decide

theorem encStop : Statement .encStop := by decide

theorem encSettle (i : BitVec 6) : Statement (.encSettle i) := by revert i; decide

theorem encTurn : Statement .encTurn := by decide

theorem encEnd : Statement .encEnd := by decide

theorem hbIdle : Statement .hbIdle := by decide

theorem eofDetect : Statement .eofDetect := by decide

theorem stopIgnore : Statement .stopIgnore := by decide

theorem capFall : Statement .capFall := by decide

theorem capSeed : Statement .capSeed := by decide

theorem capDecode : Statement .capDecode := by decide

theorem capOrder : Statement .capOrder := by decide

theorem capIgnore : Statement .capIgnore := by decide

theorem decBadHigh (p : Bool) (c : IntervalClass) : Statement (.decBadHigh p c) := by cases p <;> cases c <;> decide

theorem decBadLow (p : Bool) (c : IntervalClass) : Statement (.decBadLow p c) := by cases p <;> cases c <;> decide

theorem dec0SS : Statement .dec0SS := by decide

theorem dec0SL : Statement .dec0SL := by decide

theorem dec0LS : Statement .dec0LS := by decide

theorem dec0LL : Statement .dec0LL := by decide

theorem dec1SS : Statement .dec1SS := by decide

theorem dec1SL : Statement .dec1SL := by decide

theorem dec1LS : Statement .dec1LS := by decide

theorem dec1LL : Statement .dec1LL := by decide

theorem classify (t : BitVec 32) : Statement (.classify t) := fun _ => by simp [rowMask, rowMatch]

end Sys2Proof.Laws.EncodingMatchesRow
end

