-- ==== Sys2Proof/Laws/Step.lean ====
section
/-! SUPPORT. What one step can do, once: a dispatcher entry, or one event of the environment; how runs compose. -/

namespace Sys2Proof.Machine

variable {s t : State}

/-- An event's effect: the timer and the line, a pending flag, or the operation a caller's word selects. -/
theorem handle_cases {e : Event} (h : handle e s = .next t) :
    (s.Legal ∧
      ((∃ v, e = .tick v ∧ t = s.tick v) ∨ (∃ v, e = .line v ∧ t = s.setRx v) ∨
        (e = .evHb ∧ t = s.raiseHb) ∨ (e = .evStop ∧ t = s.raiseStop) ∨
        (∃ v n, e = .evCap v n ∧ t = s.deliverCap v n))) ∨
      (∃ cmd i, e = .call cmd ∧ decodeCmd (packCmd s.busy cmd) = .ok i ∧ exec i s = .next t) := by
  cases e with
  | tick v => left; rw [handle, guarded_eq_next] at h; exact ⟨h.1, .inl ⟨v, rfl, by simpa using h.2.2.symm⟩⟩
  | line v => left; rw [handle, guarded_eq_next] at h; exact ⟨h.1, .inr (.inl ⟨v, rfl, by simpa using h.2.2.symm⟩)⟩
  | evHb => left; rw [handle, guarded_eq_next] at h; exact ⟨h.1, .inr (.inr (.inl ⟨rfl, by simpa using h.2.2.symm⟩))⟩
  | evStop =>
    left; rw [handle, guarded_eq_next] at h
    exact ⟨h.1, .inr (.inr (.inr (.inl ⟨rfl, by simpa using h.2.2.symm⟩)))⟩
  | evCap v n =>
    left; rw [handle, guarded_eq_next] at h
    exact ⟨h.1, .inr (.inr (.inr (.inr ⟨v, n, rfl, by simpa using h.2.2.symm⟩)))⟩
  | call cmd =>
    right; rw [handle, runSelected_eq_next] at h
    obtain ⟨i, hi, hx⟩ := h
    exact ⟨cmd, i, rfl, hi, hx⟩

/-- One step: an entry, with the chain to the next recorded; or an event, taken off the trace; or, with no event left,
a tick with the line's level held. -/
theorem step_cases (h : step s = .next t) :
    s.params.WellFormed ∧
      ((s.entryNext = true ∧ ∃ i u, selectEntry s.dsel = .ok i ∧ exec i s = .next u ∧ t = u.withChained u.irq) ∨
        (s.entryNext = false ∧ s.env = [] ∧ handle (.tick s.rx) s = .next t) ∨
        (s.entryNext = false ∧ ∃ e es, s.env = e :: es ∧ handle e.event (s.withEnv es) = .next t)) := by
  unfold step at h
  split at h
  · simp at h
  · rename_i hp
    refine ⟨not_not.mp hp, ?_⟩
    split at h
    · rename_i he
      left
      rw [serveInterrupt, onNext_eq_next] at h
      obtain ⟨u, hu, rfl⟩ := h
      rw [runSelected_eq_next] at hu
      obtain ⟨i, hi, hx⟩ := hu
      exact ⟨he, i, u, by simpa using hi, hx, rfl⟩
    · rename_i he
      right
      simp only [Bool.not_eq_true] at he
      unfold serveEnvironment at h
      split at h
      · rename_i hn; exact .inl ⟨he, hn, h⟩
      · rename_i e es hn; exact .inr ⟨he, e, es, hn, h⟩

/-- A run whose first step goes to `u` is the rest of the run from `u`. -/
theorem runSteps_of_step {n : Nat} {u : State} (h : step s = .next u) : runSteps (n + 1) s = runSteps n u := by
  simp only [runSteps, h]

/-- A run of one more step that ends in a state has a first step. -/
theorem runSteps_succ_eq_next {n : Nat} :
    runSteps (n + 1) s = .next t ↔ ∃ u, step s = .next u ∧ runSteps n u = .next t := by
  cases h : step s <;> simp [runSteps, h]

/-- A run continues from the state its first part ends in. -/
theorem runSteps_add {n m : Nat} {u : State} (h : runSteps n s = .next u) : runSteps (n + m) s = runSteps m u := by
  induction n generalizing s with
  | zero => rw [Nat.zero_add]; simp only [runSteps, Host.Outcome.next.injEq] at h; rw [h]
  | succ n ih =>
    obtain ⟨v, hv, hr⟩ := runSteps_succ_eq_next.mp h
    rw [Nat.succ_add, runSteps_of_step hv, ih hr]

theorem runSteps_one (s : State) : runSteps 1 s = step s := by
  unfold runSteps
  cases step s <;> rfl

end Sys2Proof.Machine
end

