-- ==== Sys2Proof/Tests/Slice0.lean ====
section
/-! SUPPORT. Tests of single steps against spec/95_test_vectors.md, words written out from the encodings of
spec/30_encoding.md, and the witnesses that the hypotheses of the statements can be met. Expected values come from
the spec's vectors (named V, T, W, S, X, K as there) or from the encoding rules by hand. -/

namespace Sys2Proof.Tests

open Sys2Proof Sys2Proof.Machine

/-! ### States the tests start from -/

/-- A field of the next state, if there is one. -/
def after {α : Type} (o : Out) (f : State → α) : Option α :=
  match o with
  | .next t => some (f t)
  | .fault _ => none
  | .refused _ => none

/-- SENDING at the index `i` with a half-bit match pending. -/
def sending (frame : BitVec 16) (i : BitVec 6) (pol : Bool) : State :=
  { State.reset with state := stSending, busy := true, fwd := frame, hbIdx := i, pol := pol, irHb := true }

/-- RECEIVING with a backward frame. -/
def receiving (acc : Nat) (prev done last : Bool) : State :=
  { State.reset with state := stReceiving, busy := true, hbIdx := 45, bfAcc := acc, prev := prev, bfDone := done,
                     lastLevel := last }

/-- A capture of the value `n` pending, the line at `v`. -/
def captured (s : State) (v : Level) (n : Nat) : State := { s with rx := v, capVal := n, irCap := true }

/-- RECEIVING with a frame and two intervals, ready for a decode step. -/
def interval (acc : Nat) (prev : Bool) (high low : Nat) : State :=
  { receiving acc prev false true with tHigh := high, tLow := low }

/-! ### Well-formedness: an ill-formed term for each check -/

theorem test_wf_data1_refuses_even : ¬ (Instr.encData1 2).WellFormed := by decide
theorem test_wf_data1_refuses_above_31 : ¬ (Instr.encData1 33).WellFormed := by decide
theorem test_wf_data2_refuses_zero : ¬ (Instr.encData2 0).WellFormed := by decide
theorem test_wf_data2_refuses_odd : ¬ (Instr.encData2 3).WellFormed := by decide
theorem test_wf_data2_refuses_above_32 : ¬ (Instr.encData2 34).WellFormed := by decide
theorem test_wf_settle_refuses_33 : ¬ (Instr.encSettle 33).WellFormed := by decide
theorem test_wf_settle_refuses_44 : ¬ (Instr.encSettle 44).WellFormed := by decide
theorem test_wf_badLow_refuses_invalid_high : ¬ (Instr.decBadLow true .invalid).WellFormed := by decide
theorem test_wf_accepts :
    (Instr.encData1 31).WellFormed ∧ (Instr.encData2 32).WellFormed ∧ (Instr.encSettle 34).WellFormed ∧
      (Instr.encSettle 43).WellFormed ∧ (Instr.decBadLow false .long).WellFormed := by decide

/-! ### Decoding: words written out bit by bit

A cmd25 word is BUSY, OP, OPERAND. A dsel15 word is LAST_LEVEL, BF_DONE, ACC_NZ, HB_IDX, STATE, RX, IR_CAP, IR_STOP,
IR_HB. A dkey5 word is PREV, the class of T_HIGH, the class of T_LOW. -/

theorem test_decode_start : decode (.cmd25 0b0_00000001_1111111100000101#25) = .ok (.start 0xFF05) := by decide
theorem test_decode_startRej : decode (.cmd25 0b1_00000001_0000111100000101#25) = .ok (.startRej 0x0F05) := by decide
theorem test_decode_readStatus : decode (.cmd25 0b1_00000010_1010101111001101#25) = .ok (.readStatus 0xABCD) := by
  decide
theorem test_decode_reset : decode (.cmd25 0b0_00000011_0000000000000000#25) = .ok (.reset 0) := by decide
theorem test_decode_encStart2 : decode (.dsel15 0b1_0_0_000000_01_1_0_0_1#15) = .ok .encStart2 := by decide
theorem test_decode_encData1 : decode (.dsel15 0b1_0_0_011111_01_0_1_1_1#15) = .ok (.encData1 31) := by decide
theorem test_decode_encData2 : decode (.dsel15 0b0_0_0_100000_01_1_0_0_1#15) = .ok (.encData2 32) := by decide
theorem test_decode_encStop : decode (.dsel15 0b1_0_0_100001_01_1_0_0_1#15) = .ok .encStop := by decide
theorem test_decode_encSettle : decode (.dsel15 0b1_0_0_101011_01_1_0_0_1#15) = .ok (.encSettle 43) := by decide
theorem test_decode_encTurn : decode (.dsel15 0b1_0_0_101100_01_0_0_0_1#15) = .ok .encTurn := by decide
theorem test_decode_encEnd : decode (.dsel15 0b1_1_1_101101_10_1_1_0_1#15) = .ok .encEnd := by decide
theorem test_decode_hbIdle : decode (.dsel15 0b1_0_0_101101_00_1_0_0_1#15) = .ok .hbIdle := by decide
theorem test_decode_eofDetect : decode (.dsel15 0b0_0_1_101101_10_1_1_1_0#15) = .ok .eofDetect := by decide
theorem test_decode_stopIgnore : decode (.dsel15 0b0_1_1_101101_10_1_0_1_0#15) = .ok .stopIgnore := by decide
theorem test_decode_capFall : decode (.dsel15 0b1_0_1_101101_10_0_1_0_0#15) = .ok .capFall := by decide
theorem test_decode_capSeed : decode (.dsel15 0b0_0_0_101101_10_1_1_0_0#15) = .ok .capSeed := by decide
theorem test_decode_capDecode : decode (.dsel15 0b0_0_1_101101_10_1_1_0_0#15) = .ok .capDecode := by decide
theorem test_decode_capOrder : decode (.dsel15 0b0_0_1_101101_10_0_1_0_0#15) = .ok .capOrder := by decide
theorem test_decode_capIgnore : decode (.dsel15 0b1_0_0_000011_01_0_1_0_0#15) = .ok .capIgnore := by decide
theorem test_decode_decBadHigh : decode (.dkey5 0b1_00_01#5) = .ok (.decBadHigh true .short) := by decide
theorem test_decode_decBadHigh_both : decode (.dkey5 0b1_00_00#5) = .ok (.decBadHigh true .invalid) := by decide
theorem test_decode_decBadLow : decode (.dkey5 0b0_10_00#5) = .ok (.decBadLow false .long) := by decide
theorem test_decode_dec0SS : decode (.dkey5 0b0_01_01#5) = .ok .dec0SS := by decide
theorem test_decode_dec0SL : decode (.dkey5 0b0_10_01#5) = .ok .dec0SL := by decide
theorem test_decode_dec0LS : decode (.dkey5 0b0_01_10#5) = .ok .dec0LS := by decide
theorem test_decode_dec0LL : decode (.dkey5 0b0_10_10#5) = .ok .dec0LL := by decide
theorem test_decode_dec1SS : decode (.dkey5 0b1_01_01#5) = .ok .dec1SS := by decide
theorem test_decode_dec1SL : decode (.dkey5 0b1_10_01#5) = .ok .dec1SL := by decide
theorem test_decode_dec1LS : decode (.dkey5 0b1_01_10#5) = .ok .dec1LS := by decide
theorem test_decode_dec1LL : decode (.dkey5 0b1_10_10#5) = .ok .dec1LL := by decide
theorem test_decode_classify : decode (.interval32 417#32) = .ok (.classify 417) := by decide

/-- What no row selects is rejected under its own name (R84, R150, R153, R185). -/
theorem test_decode_rejects :
    decode (.cmd25 0b0_00000100_1111111100000101#25) = .error (.reservedOp 0x04) ∧
      decode (.cmd25 0#25) = .error (.reservedOp 0) ∧
      decode (.dsel15 0b1_0_0_000000_11_1_0_0_1#15) = .error .stateCode ∧
      decode (.dsel15 0b1_0_0_101110_01_1_0_0_1#15) = .error .halfBitIndex ∧
      decode (.dsel15 0b1_0_0_101101_01_1_0_0_1#15) = .error .noRow ∧
      decode (.dsel15 0b1_0_0_000000_00_1_0_0_0#15) = .error .noEntry ∧
      decode (.dkey5 0b1_11_01#5) = .error .classCode ∧ decode (.dkey5 0b1_00_11#5) = .error .classCode := by decide

/-- Table words, as the opcode table's `match` values give them. -/
theorem test_decodeTableWord :
    decodeTableWord 32 0x10000 = some (.start 0) ∧ decodeTableWord 32 0x1010000 = some (.startRej 0) ∧
      decodeTableWord 24 0x30000 = some (.reset 0) ∧ decodeTableWord 16 0xb11 = some .encTurn ∧
      decodeTableWord 8 0x21 = some .encEnd ∧ decodeTableWord 8 0x4 = some .capIgnore ∧
      decodeTableWord 8 0x1a = some .dec1LL ∧ decodeTableWord 32 0x1a1 = some (.classify 0x1a1) := by decide

/-- A table word placed after reset runs in the next step, the rows of the decode step inside a CAP_DECODE entry. -/
theorem test_withFetchWord_start :
    after (step (State.reset.withFetchWord 32 0x1FF05)) (fun t => (t.busy, t.fwd)) = some (true, 0xFF05) := by decide
theorem test_withFetchWord_turn :
    after (step (State.reset.withFetchWord 16 0xb11)) (fun t => (t.state, t.hbIdx)) = some (stReceiving, 45) := by
  decide
theorem test_withFetchWord_dec1LL :
    after (step (State.reset.withFetchWord 8 0x1a)) (fun t => t.bfAcc) = some 0b101 := by decide

/-! ### Caller operations -/

/-- K2. -/
theorem test_start :
    after (exec (.start 0xFF05) State.reset) (fun t => (t.statusWord, t.result)) = some (0x01000021, .start true) := by
  decide

/-- K9: the answer, its validity and the index of the transfer before are cleared. -/
theorem test_start_clears_answer :
    after (exec (.start 0xFF05) { State.reset with answer := 0xA5, answerValid := true, hbIdx := 45 })
      State.statusWord = some 0x01000021 := by decide

/-- K3. -/
theorem test_startRej :
    after (exec (.startRej 0x0F05) (sending 0xFF05 0 false)) (fun t => (t.fwd, t.result)) =
      some (0xFF05, .start false) := by decide

/-- Program P2, the READ at 22000: the status word in the middle of a reply. -/
theorem test_readStatus :
    after (exec (.readStatus 0) (receiving 3 true false false)) (fun t => t.result) =
      some (.status 0x00AD00C1) := by decide

/-- K5: the operand is ignored. -/
theorem test_readStatus_operand :
    after (exec (.readStatus 0xABCD) State.reset) (fun t => t.result) = some (.status 0x01000080) := by decide

/-- K8. -/
theorem test_reset :
    after (exec (.reset 0) (sending 0xFF05 17 true)) (fun t => (t.statusWord, t.fwd)) = some (0x01000080, 0) := by
  decide

/-! ### Encoder entries -/

/-- V1. -/
theorem test_encStart2 :
    after (exec .encStart2 (sending 0xFF05 0 false)) (fun t => (t.pol, t.hbIdx)) = some (true, 1) := by decide

/-- V2. -/
theorem test_encData1_one :
    after (exec (.encData1 1) (sending 0xFF05 1 true)) (fun t => (t.pol, t.hbIdx)) = some (false, 2) := by decide

/-- V6. -/
theorem test_encData1_zero :
    after (exec (.encData1 19) (sending 0xFF05 19 false)) (fun t => (t.pol, t.hbIdx)) = some (true, 20) := by decide

/-- V5. -/
theorem test_encData2_zero :
    after (exec (.encData2 18) (sending 0xFF05 18 true)) (fun t => (t.pol, t.hbIdx)) = some (false, 19) := by decide

/-- V7. -/
theorem test_encData2_last :
    after (exec (.encData2 32) (sending 0xFF05 32 false)) (fun t => (t.pol, t.hbIdx)) = some (true, 33) := by decide

/-- V9. -/
theorem test_encStop :
    after (exec .encStop (sending 0 33 false)) (fun t => (t.pol, t.hbIdx)) = some (true, 34) := by decide

/-- V11. -/
theorem test_encSettle :
    after (exec (.encSettle 43) (sending 0 43 true)) (fun t => (t.pol, t.hbIdx)) = some (true, 44) := by decide

/-- V13: the line is held low at the turnaround. -/
theorem test_encTurn :
    after (exec .encTurn { sending 0 44 true with rx := false }) (fun t => (t.state, t.lastLevel, t.hbIdx)) =
      some (stReceiving, false, 45) := by decide

/-- V15. -/
theorem test_encEnd_answer :
    after (exec .encEnd { receiving 0x1A5 true true true with irHb := true })
      (fun t => (t.answer, t.answerValid, t.bfAcc, t.busy)) = some (0xA5, true, 0, false) := by decide

/-- V16: a partial frame is discarded and ERR is kept. -/
theorem test_encEnd_partial :
    after (exec .encEnd { receiving 0x0D true false true with err := 2, irHb := true })
      (fun t => (t.answerValid, t.prev, t.state, t.err)) = some (false, false, stIdle, 2) := by decide

/-! ### The dispatcher's other entries -/

/-- X2. -/
theorem test_hbIdle :
    after (exec .hbIdle { State.reset with irHb := true }) (fun t => (t.irHb, t.statusWord)) =
      some (false, 0x01000080) := by decide

/-- S3: a start bit alone. -/
theorem test_eofDetect_start_bit_only :
    after (exec .eofDetect { receiving 1 true false true with irStop := true })
      (fun t => (t.bfAcc, t.prev, t.bfDone, t.err)) = some (0, false, false, 0) := by decide

/-- S4: one data bit. -/
theorem test_eofDetect_one_bit :
    after (exec .eofDetect { receiving 2 false false true with irStop := true }) (fun t => (t.bfAcc, t.bfDone)) =
      some (2, true) := by decide

/-- X3. -/
theorem test_stopIgnore :
    after (exec .stopIgnore { sending 0xFF05 3 true with irHb := false, irStop := true, cnt := 200 })
      (fun t => (t.irStop, t.cnt, t.hbIdx)) = some (false, 0, 3) := by decide

/-- X8. -/
theorem test_capFall :
    after (exec .capFall (captured (receiving 3 true false true) false 834)) (fun t => (t.tHigh, t.lastLevel)) =
      some (834, false) := by decide

/-- S2: the seed does not classify. -/
theorem test_capSeed :
    after (exec .capSeed (captured (receiving 0 false false false) true 5000))
      (fun t => (t.tLow, t.bfAcc, t.prev, t.lastLevel)) = some (5000, 1, true, true) := by decide

/-- T5. -/
theorem test_capDecode :
    after (exec .capDecode (captured { receiving 1 true false false with tHigh := 417 } true 417))
      (fun t => (t.bfAcc, t.tLow, t.lastLevel)) = some (0b11, 417, true) := by decide

/-- T11: both intervals are INVALID, and the high one is checked first. -/
theorem test_capDecode_high_first :
    after (exec .capDecode (captured { receiving 3 true false false with tHigh := 1200 } true 200))
      (fun t => (t.bfAcc, t.err)) = some (0, 2) := by decide

/-- X6. -/
theorem test_capOrder :
    after (exec .capOrder (captured (receiving 3 true false false) false 417))
      (fun t => (t.bfAcc, t.err, t.lastLevel, t.tHigh)) = some (0, 4, false, 0) := by decide

/-- X5. -/
theorem test_capIgnore :
    after (exec .capIgnore (captured (receiving 0x1A5 true true true) false 300))
      (fun t => (t.bfAcc, t.lastLevel, t.irCap)) = some (0x1A5, true, false) := by decide

/-! ### The decoder's rows -/

/-- T9. -/
theorem test_decBadHigh :
    after (exec (.decBadHigh true .short) (interval 1 true 600 417)) (fun t => (t.bfAcc, t.prev, t.err)) =
      some (0, false, 2) := by decide

/-- T15. -/
theorem test_decBadLow :
    after (exec (.decBadLow true .short) (interval 3 true 417 500)) (fun t => (t.bfAcc, t.prev, t.err)) =
      some (0, false, 1) := by decide

/-- T1. -/
theorem test_dec0SS :
    after (exec .dec0SS (interval 0b10 false 417 417)) (fun t => (t.bfAcc, t.prev)) = some (0b100, false) := by decide

/-- W1: the accumulator overflows to empty. -/
theorem test_dec0SS_overflow :
    after (exec .dec0SS (interval 0x80000000 false 417 417)) (fun t => (t.bfAcc, t.stopEn)) = some (0, false) := by
  decide

/-- T2. -/
theorem test_dec0SL :
    after (exec .dec0SL (interval 0b10 false 834 417)) (fun t => (t.bfAcc, t.err)) = some (0, 3) := by decide

/-- T13: the bounds just inside. -/
theorem test_dec0LS :
    after (exec .dec0LS (interval 0b10 false 334 999)) (fun t => (t.bfAcc, t.prev)) = some (0b1001, true) := by decide

/-- W2. -/
theorem test_dec0LS_overflow :
    after (exec .dec0LS (interval 0xC0000000 false 417 834)) (fun t => (t.bfAcc, t.prev)) = some (1, true) := by decide

/-- T4. -/
theorem test_dec0LL :
    after (exec .dec0LL (interval 0b10 false 834 834)) (fun t => (t.bfAcc, t.err)) = some (0, 3) := by decide

/-- W4. -/
theorem test_dec1SS :
    after (exec .dec1SS (interval 0x7FFFFFFF true 417 417)) (fun t => (t.bfAcc, t.prev)) =
      some (0xFFFFFFFF, true) := by decide

/-- T6. -/
theorem test_dec1SL :
    after (exec .dec1SL (interval 0b11 true 834 417)) (fun t => (t.bfAcc, t.prev)) = some (0b110, false) := by decide

/-- T14. -/
theorem test_dec1LS :
    after (exec .dec1LS (interval 1 true 499 667)) (fun t => (t.bfAcc, t.prev, t.err)) = some (0, false, 3) := by
  decide

/-- T8. -/
theorem test_dec1LL :
    after (exec .dec1LL (interval 1 true 834 834)) (fun t => (t.bfAcc, t.prev)) = some (0b101, true) := by decide

/-- W3. -/
theorem test_dec1LL_overflow :
    after (exec .dec1LL (interval 0x80000001 true 834 834)) (fun t => t.bfAcc) = some 5 := by decide

/-- The classifier's table, section 2.2. -/
theorem test_classify :
    [0, 332, 333, 334, 417, 499, 500, 501].map (classify Params.defaults) =
        [.invalid, .invalid, .invalid, .short, .short, .short, .invalid, .invalid] ∧
      [600, 666, 667, 834, 999, 1000, 1668, 4294967295].map (classify Params.defaults) =
        [.invalid, .invalid, .long, .long, .long, .invalid, .invalid, .invalid] := by decide

/-- The operation's result. -/
theorem test_classify_result :
    after (exec (.classify 834) State.reset) (fun t => t.result) = some (.cls .long) := by decide

/-! ### The step around them -/

/-- X9: the watchdog is served before the capture, and the capture is chained to it. -/
theorem test_step_serves_match_first :
    after (step { captured (receiving 0x1A5 true true true) false 9174 with irHb := true })
      (fun t => (t.state, t.answer, t.irCap, t.chained)) = some (stIdle, 0xA5, true, true) := by decide

/-- X10, the second entry: the capture value outlives the first entry's counter reset. -/
theorem test_runSteps_keeps_capture :
    after (runSteps 2 { captured (receiving 1 true false true) false 1668 with irStop := true })
      (fun t => (t.bfAcc, t.tHigh, t.lastLevel)) = some (0, 1668, false) := by decide

/-- K6: a reserved op code is refused. -/
theorem test_step_refuses_reserved :
    step { State.reset with env := [{ first := false, event := .call 0x04FF05 }] } = .refused .reservedOp := by rfl

/-- R213, R214: the tick that reaches TE raises the match. -/
theorem test_step_tick_match :
    after (step { sending 0 0 false with irHb := false, cnt := 416 }) (fun t => (t.cnt, t.irHb)) =
      some (417, true) := by decide

/-- R216: an edge in reception is captured with the new count. -/
theorem test_step_tick_capture :
    after (step { receiving 0 false false true with cnt := 833, env := [{ first := false, event := .tick false }] })
      (fun t => (t.capVal, t.irCap)) = some (834, true) := by decide

/-- A rule R43 broken, R207. -/
theorem test_step_broken : step { State.reset with state := 3, busy := true } = .fault .brokenInvariant := by rfl

/-- Section 2.1: the polarities of 0xA5C3, slots 1 to 32, and the frames of E6 and E7. -/
theorem test_encPol :
    (List.range 32).map (fun k => encPol 0xA5C3 (k + 1)) =
      [false, true, true, false, false, true, true, false, true, false, false, true, true, false, false, true,
       false, true, false, true, true, false, true, false, true, false, true, false, false, true, false, true] := by
  decide
theorem test_pseudo_operations :
    broadcast CommandParams.defaults 0x05 = 0x01FF05 ∧ turnOn CommandParams.defaults 0x07 = 0x010F05 := by decide

/-! ### Witnesses: the hypotheses of the statements can be met

Each shows one state and the operands that meet all hypotheses of a statement, or of one of its clauses, together. -/

/-- An accepted START has just been served. -/
def started : State := { sending 0xFF05 0 false with irHb := false }

/-- RECEIVING, nothing pending, on an idle line. -/
def waiting : State := receiving 0 false false true

/-- `s` with one event left in the trace. -/
def withEvent (s : State) (first : Bool) (e : Event) : State := { s with env := [{ first := first, event := e }] }

theorem witness_DecodeOfEncode : (Instr.encData2 2).WellFormed := by decide
theorem witness_DecodedIsWellFormed : decode (.dsel15 0b1_0_0_100010_01_1_0_0_1#15) = .ok (.encSettle 34) := by decide
theorem witness_EncodeOfDecodedCommand :
    decode (.cmd25 (packCmd true 0x010F05)) = .ok (.startRej 0x0F05) := by decide
theorem witness_EntrySelectionFollowsRules : (sending 0xFF05 44 true).Legal := by decide

theorem witness_StepServesInterrupt :
    State.reset.params.WellFormed ∧ (sending 0xFF05 5 false).irq = true ∧
      (∀ e es, (sending 0xFF05 5 false).env = e :: es → e.first = false) ∧
      decode (.dsel15 (sending 0xFF05 5 false).dselWord) = .ok (.encData1 5) :=
  ⟨by decide, by decide, by intro e es h; simp [sending, State.reset, State.resetWith] at h, by decide⟩
theorem witness_StepServesInterrupt_chained :
    State.reset.params.WellFormed ∧ { sending 0xFF05 32 false with chained := true }.irq = true ∧
      { sending 0xFF05 32 false with chained := true }.chained = true ∧
      decode (.dsel15 { sending 0xFF05 32 false with chained := true }.dselWord) = .ok (.encData2 32) := by decide
theorem witness_StepServesCaller :
    (withEvent State.reset false (.call 0x01FF05)).params.WellFormed ∧
      (withEvent State.reset false (.call 0x01FF05)).irq = false ∧
      decode (.cmd25 (packCmd (withEvent State.reset false (.call 0x01FF05)).busy 0x01FF05)) = .ok (.start 0xFF05) := by
  decide
theorem witness_StepServesCaller_first :
    (withEvent (sending 0xFF05 5 false) true (.call 0x020000)).params.WellFormed ∧
      (withEvent (sending 0xFF05 5 false) true (.call 0x020000)).chained = false ∧
      decode (.cmd25 (packCmd (withEvent (sending 0xFF05 5 false) true (.call 0x020000)).busy 0x020000)) =
        .ok (.readStatus 0) := by decide
/-- A CAP_DECODE entry due, chained to the entry before: T_HIGH is 417 and the captured low interval 834. -/
def decoding : State := { captured (interval 1 true 417 0) true 834 with lastLevel := false, chained := true }

theorem witness_StepServesFunctions :
    decoding.params.WellFormed ∧ decoding.Legal ∧ decoding.chained = true ∧ decoding.EvCap ∧ decoding.rx = true ∧
      decoding.InFrame ∧ decoding.lastLevel = false := by decide
theorem witness_StepServesFunctions_words :
    decode (.dkey5 (packDkey decoding.prev (classify decoding.params decoding.tHigh)
        (classify decoding.params decoding.capVal))) = .ok .dec1LS ∧
      (417#32).toNat = decoding.tHigh ∧ (834#32).toNat = decoding.capVal := by decide
theorem witness_ReservedOpIsRefused :
    (withEvent State.reset false (.call 0x04FF05)).params.WellFormed ∧
      (withEvent State.reset false (.call 0x04FF05)).irq = false ∧
      (0x04FF05#24).extractLsb' 16 8 ≠ 0x01 ∧ (0x04FF05#24).extractLsb' 16 8 ≠ 0x02 ∧
      (0x04FF05#24).extractLsb' 16 8 ≠ 0x03 := by decide
theorem witness_BadParametersAreRefused :
    ¬ (State.resetWith { Params.defaults with te := 0 }).params.WellFormed := by decide
theorem witness_BrokenInvariantIsAFault_entry :
    State.reset.params.WellFormed ∧ ¬ (sending 0 46 true).Legal ∧ (sending 0 46 true).entryNext = true := by decide
theorem witness_BrokenInvariantIsAFault_event :
    State.reset.params.WellFormed ∧ ¬ { State.reset with err := 5 }.Legal ∧
      ∀ e es cmd, { State.reset with err := 5 }.env = e :: es → e.event = .call cmd →
        cmd.extractLsb' 16 8 = 0x01 ∨ cmd.extractLsb' 16 8 = 0x02 :=
  ⟨by decide, by decide, by intro e es cmd h; simp [State.reset, State.resetWith] at h⟩
theorem witness_TickOrder :
    (withEvent waiting false (.tick false)).params.WellFormed ∧ (withEvent waiting false (.tick false)).Legal ∧
      (withEvent waiting false (.tick false)).irq = false := by decide
theorem witness_CaptureOverrunOverwrites :
    (withEvent (captured waiting true 5) true (.tick false)).params.WellFormed ∧
      (withEvent (captured waiting true 5) true (.tick false)).Legal ∧ (captured waiting true 5).chained = false ∧
      (captured waiting true 5).irCap = true ∧ waiting.state ≠ stSending ∧ false ≠ waiting.prevRx := by decide
theorem witness_LegalStatesStep_event :
    waiting.params.WellFormed ∧ waiting.Legal ∧
      (waiting.entryNext = false → ∀ e es cmd, waiting.env = e :: es → e.event = .call cmd →
        cmd.extractLsb' 16 8 = 0x01 ∨ cmd.extractLsb' 16 8 = 0x02 ∨ cmd.extractLsb' 16 8 = 0x03) :=
  ⟨by decide, by decide, by intro _ e es cmd h; simp [waiting, receiving, State.reset, State.resetWith] at h⟩

/-- A due entry, while a reserved op code waits in the trace. -/
theorem witness_LegalStatesStep_entry :
    (withEvent (sending 0xFF05 5 false) false (.call 0x04FF05)).Legal ∧
      (withEvent (sending 0xFF05 5 false) false (.call 0x04FF05)).entryNext ≠ false := by decide
theorem witness_ResetOrderDoesNotMatter :
    (sending 0xFF05 17 true).params.WellFormed ∧ (sending 0xFF05 17 true).Legal ∧
      (sending 0xFF05 17 true).chained = false ∧
      (sending 0xFF05 17 true).irHb.toNat + (sending 0xFF05 17 true).irStop.toNat +
        (sending 0xFF05 17 true).irCap.toNat = 1 := by decide
theorem witness_StartBesideEndOfTransfer :
    { waiting with irHb := true }.params.WellFormed ∧ { waiting with irHb := true }.Legal ∧
      waiting.state = stReceiving ∧ waiting.irStop = false ∧ waiting.irCap = false ∧ waiting.chained = false := by decide
theorem witness_ResetMeetsInvariants : Params.defaults.WellFormed := by decide

/-! Invariants: a state that meets each one, and what a step from it leaves. -/

theorem witness_StepKeepsLegal :
    (sending 0xFF05 44 true).Legal ∧ after (step (sending 0xFF05 44 true)) (fun t => t.state) = some stReceiving := by
  decide
theorem witness_StepKeepsWidths :
    (captured (receiving 3 true false false) true 417).WidthsHold ∧
      after (step (captured (receiving 3 true false false) true 417)) (fun t => t.tLow) = some 417 := by decide
theorem witness_StepKeepsPrevIsLastBit :
    (captured (interval 3 true 834 0) true 417).Legal ∧ (captured (interval 3 true 834 0) true 417).PrevIsLastBit ∧
      after (step { captured (interval 3 true 834 0) true 417 with lastLevel := false })
        (fun t => (t.bfAcc, t.prev)) = some (6, false) := by decide
theorem witness_StepKeepsTxOnWaveform :
    (sending 0xFF05 17 true).Legal ∧ (sending 0xFF05 17 true).TxFollowsEncoder ∧
      after (step (sending 0xFF05 17 true)) (fun t => t.tx) = some (encPol 0xFF05 17) := by decide
theorem witness_StepKeepsCounterInBound :
    { started with cnt := 416 }.Legal ∧ { started with cnt := 416 }.CounterInBound ∧
      after (step { started with cnt := 416 }) (fun t => t.irHb) = some true := by decide
theorem witness_StepKeepsChainAndParameters :
    { captured (receiving 1 true false true) false 1668 with irStop := true }.ChainHasFlag ∧
      after (step { captured (receiving 1 true false true) false 1668 with irStop := true })
        (fun t => (t.chained, t.irq)) = some (true, true) := by decide

/-! Whole-machine rules: a legal state and a step of each kind. -/

theorem witness_StateTransitions_start :
    (withEvent State.reset false (.call 0x01FF05)).Legal ∧
      after (step (withEvent State.reset false (.call 0x01FF05))) (fun t => t.state) = some stSending := by decide
theorem witness_StateTransitions_turn :
    (sending 0xFF05 44 true).Legal ∧ after (step (sending 0xFF05 44 true)) (fun t => t.state) = some stReceiving := by
  decide
theorem witness_StateTransitions_end :
    { waiting with irHb := true }.Legal ∧
      after (step { waiting with irHb := true }) (fun t => t.state) = some stIdle := by decide
theorem witness_StateTransitions_reset :
    (withEvent started false (.call 0x030000)).Legal ∧
      after (step (withEvent started false (.call 0x030000))) (fun t => t.state) = some stIdle := by decide
theorem witness_FrameIsFixedDuringTransfer :
    (withEvent started false (.call 0x010F05)).Legal ∧ started.busy = true ∧
      after (step (withEvent started false (.call 0x010F05))) (fun t => (t.busy, t.fwd)) = some (true, 0xFF05) := by
  decide
/-- The step that is no entry: an edge in reception, with nothing pending. -/
theorem witness_FrameIsFixedDuringTransfer_tick :
    (withEvent waiting false (.tick false)).Legal ∧ waiting.busy = true ∧
      (withEvent waiting false (.tick false)).entryNext = false ∧
      after (step (withEvent waiting false (.tick false))) (fun t => (t.irCap, t.lastLevel)) = some (true, true) := by
  decide
theorem witness_IndexOnlyAdvances :
    (sending 0xFF05 43 true).Legal ∧ after (step (sending 0xFF05 43 true)) (fun t => t.hbIdx) = some 44 := by decide
theorem witness_IndexOnlyAdvances_start :
    (withEvent { State.reset with hbIdx := 45 } false (.call 0x01FF05)).Legal ∧
      after (step (withEvent { State.reset with hbIdx := 45 } false (.call 0x01FF05))) (fun t => t.hbIdx) = some 0 := by
  decide
theorem witness_IndexOnlyAdvances_reset :
    (withEvent { State.reset with hbIdx := 45 } false (.call 0x030000)).Legal ∧
      after (step (withEvent { State.reset with hbIdx := 45 } false (.call 0x030000))) (fun t => t.hbIdx) = some 0 := by
  decide
theorem witness_ErrorsComeFromReception :
    (captured (receiving 3 true false false) false 417).Legal ∧
      after (step (captured (receiving 3 true false false) false 417)) (fun t => (t.err, t.bfAcc)) = some (4, 0) := by
  decide
theorem witness_ErrorsComeFromReception_start :
    (withEvent { State.reset with err := 2 } false (.call 0x01FF05)).Legal ∧
      after (step (withEvent { State.reset with err := 2 } false (.call 0x01FF05))) (fun t => t.err) = some 0 := by
  decide
theorem witness_ErrorsComeFromReception_reset :
    (withEvent { State.reset with err := 2 } false (.call 0x030000)).Legal ∧
      after (step (withEvent { State.reset with err := 2 } false (.call 0x030000))) (fun t => t.err) = some 0 := by
  decide
theorem witness_EndOfTransferIsAtomic :
    { receiving 0x1A5 true true true with irHb := true }.Legal ∧
      after (step { receiving 0x1A5 true true true with irHb := true }) (fun t => (t.busy, t.answerValid, t.answer)) =
        some (false, true, 0xA5) := by decide
theorem witness_EndOfTransferIsAtomic_reset :
    (withEvent waiting false (.call 0x030000)).Legal ∧ waiting.busy = true ∧
      after (step (withEvent waiting false (.call 0x030000))) (fun t => t.busy) = some false := by decide

/-! Single operations: a state for each clause, at the boundaries of its range. -/

theorem witness_StartBeginsTransfer : State.reset.Legal ∧ State.reset.busy = false := by decide
theorem witness_StartWhileBusyIsRejected : started.Legal ∧ started.busy = true := by decide
theorem witness_ReadStatusReturnsWord : waiting.Legal := by decide
theorem witness_StartBitSecondHalf :
    (sending 0xFF05 0 false).Legal ∧ (sending 0xFF05 0 false).irHb = true ∧
      (sending 0xFF05 0 false).state = stSending ∧ (sending 0xFF05 0 false).hbIdx = 0 := by decide
theorem witness_DataBitHalves :
    ∀ i ∈ ([1, 2, 31, 32] : List (BitVec 6)),
      (sending 0xA5C3 i true).Legal ∧ (sending 0xA5C3 i true).irHb = true ∧ (sending 0xA5C3 i true).state = stSending ∧
        (sending 0xA5C3 i true).hbIdx = i ∧ 1 ≤ i.toNat ∧ i.toNat ≤ 32 := by decide
theorem witness_StopAndSettleDriveOne :
    ∀ i ∈ ([33, 34, 43] : List (BitVec 6)),
      (sending 0 i true).Legal ∧ (sending 0 i true).irHb = true ∧ (sending 0 i true).state = stSending ∧
        (sending 0 i true).hbIdx = i := by decide
theorem witness_TurnaroundStartsReception :
    (sending 0 44 true).Legal ∧ (sending 0 44 true).irHb = true ∧ (sending 0 44 true).state = stSending ∧
      (sending 0 44 true).hbIdx = 44 := by decide
theorem witness_WatchdogEndsTransfer_answer :
    { receiving 0x1A5 true true true with irHb := true }.Legal ∧ (receiving 0x1A5 true true true).state = stReceiving ∧
      (receiving 0x1A5 true true true).bfDone = true := by decide
theorem witness_WatchdogEndsTransfer_none :
    { waiting with irHb := true }.Legal ∧ waiting.state = stReceiving ∧ waiting.bfDone = false := by decide
theorem witness_IdleEvents_hb :
    { State.reset with irHb := true }.Legal ∧ { State.reset with irHb := true }.EvHb ∧ State.reset.state = stIdle := by
  decide
theorem witness_IdleEvents_stop_done :
    { receiving 0x1A5 true true true with irStop := true }.Legal ∧
      { receiving 0x1A5 true true true with irStop := true }.EvStop ∧ ¬ (receiving 0x1A5 true true true).InFrame := by
  decide
theorem witness_IdleEvents_stop_empty :
    { waiting with irStop := true }.Legal ∧ { waiting with irStop := true }.EvStop ∧ ¬ waiting.InFrame := by decide
theorem witness_IdleEvents_capture_idle :
    (captured State.reset false 123).Legal ∧ (captured State.reset false 123).EvCap ∧
      (captured State.reset false 123).state ≠ stReceiving := by decide
theorem witness_IdleEvents_capture_done :
    (captured (receiving 0x1A5 true true true) false 300).Legal ∧
      (captured (receiving 0x1A5 true true true) false 300).EvCap ∧ (receiving 0x1A5 true true true).bfDone = true := by
  decide
theorem witness_EndOfFrameDetection_start_bit :
    { receiving 1 true false true with irStop := true }.Legal ∧
      { receiving 1 true false true with irStop := true }.EvStop ∧ (receiving 1 true false true).InFrame := by decide
theorem witness_EndOfFrameDetection_one_bit :
    { receiving 2 false false true with irStop := true }.Legal ∧
      { receiving 2 false false true with irStop := true }.EvStop ∧ (receiving 2 false false true).InFrame := by decide
theorem witness_FallingEdgeRecordsHigh :
    (captured waiting false 834).Legal ∧ (captured waiting false 834).EvCap ∧ (captured waiting false 834).rx = false ∧
      waiting.state = stReceiving ∧ waiting.bfDone = false ∧ waiting.lastLevel = true := by decide
theorem witness_FirstRisingEdgeSeeds :
    (captured (receiving 0 false false false) true 417).Legal ∧
      (captured (receiving 0 false false false) true 417).EvCap ∧ (receiving 0 false false false).bfAcc = 0 ∧
      (receiving 0 false false false).bfDone = false ∧ (receiving 0 false false false).lastLevel = false := by decide
theorem witness_RisingEdgeDecodes :
    (captured (receiving 1 true false false) true 417).Legal ∧ (captured (receiving 1 true false false) true 417).EvCap ∧
      (receiving 1 true false false).InFrame ∧ (receiving 1 true false false).lastLevel = false := by decide
theorem witness_AlternationViolationIsAnError :
    (captured waiting true 417).Legal ∧ (captured waiting true 417).EvCap ∧ waiting.state = stReceiving ∧
      waiting.bfDone = false ∧ (captured waiting true 417).rx = waiting.lastLevel := by decide
theorem witness_BadIntervalsAreErrors_high :
    (interval 3 true 1200 200).Legal ∧ (interval 3 true 1200 200).InFrame ∧
      classify Params.defaults 1200 = .invalid := by decide
theorem witness_BadIntervalsAreErrors_low :
    (interval 1 true 417 1200).Legal ∧ (interval 1 true 417 1200).InFrame ∧
      classify Params.defaults 417 ≠ .invalid ∧ classify Params.defaults 1200 = .invalid := by decide

/-- The classes that select the rows below. -/
theorem witness_short_and_long :
    classify Params.defaults 417 = .short ∧ classify Params.defaults 834 = .long := by decide

theorem witness_ProtocolErrorRows_0SL :
    (interval 2 false 834 417).Legal ∧ (interval 2 false 834 417).InFrame ∧ (interval 2 false 834 417).prev = false := by
  decide
theorem witness_ProtocolErrorRows_0LL :
    (interval 2 false 834 834).Legal ∧ (interval 2 false 834 834).InFrame ∧ (interval 2 false 834 834).prev = false := by
  decide
theorem witness_ProtocolErrorRows_1LS :
    (interval 1 true 417 834).Legal ∧ (interval 1 true 417 834).InFrame ∧ (interval 1 true 417 834).prev = true := by
  decide
theorem witness_OneBitRows_0SS :
    (interval 2 false 417 417).Legal ∧ (interval 2 false 417 417).InFrame ∧ (interval 2 false 417 417).prev = false := by
  decide
theorem witness_OneBitRows_1SS :
    (interval 1 true 417 417).Legal ∧ (interval 1 true 417 417).InFrame ∧ (interval 1 true 417 417).prev = true := by
  decide
theorem witness_OneBitRows_1SL :
    (interval 3 true 834 417).Legal ∧ (interval 3 true 834 417).InFrame ∧ (interval 3 true 834 417).prev = true := by
  decide
theorem witness_TwoBitRows_0LS :
    (interval 2 false 417 834).Legal ∧ (interval 2 false 417 834).InFrame ∧ (interval 2 false 417 834).prev = false := by
  decide
theorem witness_TwoBitRows_1LL :
    (interval 1 true 834 834).Legal ∧ (interval 1 true 834 834).InFrame ∧ (interval 1 true 834 834).prev = true := by
  decide
theorem witness_ClassifierWindows :
    Params.defaults.WellFormed ∧ Params.defaults.minTe + 1 < Params.defaults.maxTe ∧
      Params.defaults.min2Te + 1 < Params.defaults.max2Te ∧ Params.defaults.maxTe ≤ 600 ∧
      600 ≤ Params.defaults.min2Te := by decide

/-! Timing and reception. -/

/-- An edge on the line, a rejected START and a READ_STATUS in the pre slot. -/
def busyTrace : List Stimulus :=
  [{ first := false, event := .tick false }, { first := false, event := .line true },
   { first := false, event := .call 0x010F05 }, { first := false, event := .call 0x020000 }]

theorem witness_TransmissionFollowsWaveform :
    started.params.WellFormed ∧ { started with env := busyTrace }.Legal ∧ started.state = stSending ∧
      started.hbIdx = 0 ∧ started.cnt = 0 ∧ started.pol = false ∧ started.irq = false ∧
      undisturbed busyTrace = true ∧ 18764 = ticksIn busyTrace + 18763 := by decide
theorem witness_TransmissionFollowsWaveform_bound :
    18764 < 45 * started.params.te ∧ ¬ 18765 < 45 * started.params.te := by decide
theorem witness_ReceptionStartsOnTime :
    started.params.WellFormed ∧ { started with env := busyTrace }.Legal ∧ started.state = stSending ∧
      started.hbIdx = 0 ∧ started.cnt = 0 ∧ started.irq = false ∧ undisturbed busyTrace = true ∧
      ticksIn busyTrace + 18764 = 45 * started.params.te := by decide
theorem witness_QuietLineEndsTransfer_empty :
    waiting.params.WellFormed ∧ waiting.Legal ∧ waiting.state = stReceiving ∧ waiting.bfAcc = 0 ∧
      waiting.irq = false ∧ waiting.env = [] ∧ waiting.rx = waiting.prevRx ∧ waiting.cnt < waiting.params.wdT := by
  decide
theorem witness_QuietLineEndsTransfer_done :
    { receiving 0x1A5 true true true with cnt := 9173 }.Legal ∧ (receiving 0x1A5 true true true).bfDone = true ∧
      (receiving 0x1A5 true true true).irq = false ∧ (receiving 0x1A5 true true true).env = [] ∧
      9173 < Params.defaults.wdT := by decide
theorem witness_QuietLineCompletesFrame_start_bit :
    (receiving 1 true false true).Legal ∧ (receiving 1 true false true).InFrame ∧
      (receiving 1 true false true).irq = false ∧ (receiving 1 true false true).env = [] ∧
      (receiving 1 true false true).cnt < Params.defaults.stopT := by decide
theorem witness_QuietLineCompletesFrame_one_bit :
    { receiving 2 false false true with cnt := 1667 }.Legal ∧ (receiving 2 false false true).InFrame ∧
      (receiving 2 false false true).irq = false ∧ (receiving 2 false false true).env = [] ∧
      1667 < Params.defaults.stopT := by decide
theorem witness_CapturedValueIsElapsedTicks :
    { waiting with env := ticks (fun k => if k ≤ 833 then true else !true) 0 834 }.params.WellFormed ∧
      { waiting with env := ticks (fun k => if k ≤ 833 then true else !true) 0 834 }.Legal ∧
      waiting.state = stReceiving ∧ waiting.irq = false ∧ waiting.cnt = 0 ∧ waiting.prevRx = true ∧
      833 + 1 < waiting.params.stopT :=
  ⟨show waiting.params.WellFormed by decide, show waiting.Legal by decide, by decide⟩
theorem witness_SilentTransferHasNoReply :
    (withEvent State.reset false (.call (cmdWord 0x01 0xFF05))).params.WellFormed ∧
      (withEvent State.reset false (.call (cmdWord 0x01 0xFF05))).Legal ∧
      (withEvent State.reset false (.call (cmdWord 0x01 0xFF05))).irq = false ∧ State.reset.busy = false := by decide
theorem witness_ReplyIsDecoded :
    { waiting with env := replyEvents 417 834 [true, false, true] }.Legal ∧ waiting.params.te = 417 ∧
      waiting.state = stReceiving ∧ waiting.bfAcc = 0 ∧ waiting.bfDone = false ∧ waiting.lastLevel = true ∧
      waiting.irq = false ∧ [true, false, true].length < waiting.params.bfW := by decide
theorem witness_ReplyIsDecoded_windows :
    Params.defaults.WellFormed ∧ classify Params.defaults Params.defaults.te = .short ∧
      classify Params.defaults (2 * Params.defaults.te) = .long := by decide

/-- A loopback of the frame 0x0F05, the stop match and the watchdog. -/
def loopback : List Stimulus :=
  replyEvents 417 834 (frameBits 0x0F05) ++ [{ first := false, event := .evStop }, { first := false, event := .evHb }]

theorem witness_LoopbackRecoversFrame :
    { waiting with env := loopback }.Legal ∧ waiting.params.te = 417 ∧ waiting.state = stReceiving ∧
      waiting.bfAcc = 0 ∧ waiting.bfDone = false ∧ waiting.lastLevel = true ∧ waiting.irq = false := by decide

/-- A reply of the one data bit 0, by hand: a seed at the start cell's middle edge, and row DEC_1SL at the edge into the
idle level (R141, R144). -/
theorem test_reply_of_one_bit :
    after (runSteps 8 { waiting with env := replyEvents 417 834 [false] }) (fun t => (t.bfAcc, t.prev, t.err)) =
      some (0b10, false, 0) := by decide

end Sys2Proof.Tests
end

/-! ## The scope of the model: parameters and widths

What 00_scope asks of every step: a parameter set that fails R7 is refused, and a register of a parametric width never
leaves it (R10). -/

namespace Sys2Proof.Machine

/-! ### The parameter check -/

/-- Settles O11: the parameter set is the first thing `step` looks at. -/
theorem badParametersAreRefused : Obligations.BadParametersAreRefused := fun _ h => if_pos h

/-! ### The writes that reach a register of a parametric width

Only the updates below write `BF_ACC`, `T_HIGH`, `T_LOW`, `CNT` or `CAP_VAL`. For every other update the widths of the
state before and after are the same proposition by definition, so the proofs further down leave it out. -/

variable {s t : State}

namespace State.WidthsHold

theorem enterHb (hw : s.WidthsHold) : s.enterHb.WidthsHold := by
  obtain ⟨hacc, hhigh, hlow, -, hcap⟩ := hw
  exact ⟨hacc, hhigh, hlow, Nat.two_pow_pos _, hcap⟩

theorem enterStop (hw : s.WidthsHold) : s.enterStop.WidthsHold := hw.enterHb

theorem enterCap (hw : s.WidthsHold) : s.enterCap.WidthsHold := hw.enterHb

theorem clearBf (hw : s.WidthsHold) : s.clearBf.WidthsHold := ⟨Nat.two_pow_pos _, hw.2⟩

theorem shiftIn (hw : s.WidthsHold) (x : Bool) : (s.shiftIn x).WidthsHold :=
  ⟨Nat.mod_lt _ (Nat.two_pow_pos _), hw.2⟩

/-- The seed is the one write of `BF_ACC` that is not cut to `BF_W` bits, and R7 gives `BF_W` room for it. -/
theorem seed (hw : s.WidthsHold) (hp : s.params.WellFormed) : s.seed.WidthsHold := by
  obtain ⟨-, -, -, -, -, -, -, hbfW⟩ := hp
  have hne : s.params.bfW ≠ 0 := by omega
  exact ⟨Nat.one_lt_two_pow hne, hw.2⟩

/-- The captured value has the width of the interval it becomes. -/
theorem recordHigh (hw : s.WidthsHold) : s.recordHigh.WidthsHold := by
  obtain ⟨hacc, -, hlow, hcnt, hcap⟩ := hw
  exact ⟨hacc, hcap, hlow, hcnt, hcap⟩

theorem recordLow (hw : s.WidthsHold) : s.recordLow.WidthsHold := by
  obtain ⟨hacc, hhigh, -, hcnt, hcap⟩ := hw
  exact ⟨hacc, hhigh, hcap, hcnt, hcap⟩

theorem startTransfer (hw : s.WidthsHold) (f : BitVec 16) : (s.startTransfer f).WidthsHold := by
  obtain ⟨-, -, -, -, hcap⟩ := hw
  have hpos := Nat.two_pow_pos s.params.timerW
  exact ⟨Nat.two_pow_pos _, hpos, hpos, hpos, hcap⟩

theorem endTransfer (hw : s.WidthsHold) : s.endTransfer.WidthsHold := hw.clearBf

/-- RESET writes 0 to all five registers, so it needs nothing of the state before. -/
theorem resetAll (s : State) : s.resetAll.WidthsHold := by
  have hpos := Nat.two_pow_pos s.params.timerW
  exact ⟨Nat.two_pow_pos _, hpos, hpos, hpos, hpos⟩

/-- The counter wraps at `TIMER_W` bits (R213), and a capture takes the counter's value (R216). -/
theorem tick (hw : s.WidthsHold) (v : Level) : (s.tick v).WidthsHold := by
  obtain ⟨hacc, hhigh, hlow, hcnt, hcap⟩ := hw
  have hcnt' : (s.tick v).cnt < 2 ^ s.params.timerW := by
    rw [State.tick_cnt]
    split
    · exact Nat.mod_lt _ (Nat.two_pow_pos _)
    · exact hcnt
  have hcap' : (s.tick v).capVal < 2 ^ s.params.timerW := by
    rw [State.tick_capVal]
    split
    · exact hcnt'
    · exact hcap
  simp only [State.WidthsHold, State.tick_params, State.tick_bfAcc, State.tick_tHigh, State.tick_tLow]
  exact ⟨hacc, hhigh, hlow, hcnt', hcap'⟩

theorem deliverCap (hw : s.WidthsHold) (v : Level) (n : Nat) : (s.deliverCap v n).WidthsHold := by
  obtain ⟨hacc, hhigh, hlow, hcnt, -⟩ := hw
  exact ⟨hacc, hhigh, hlow, hcnt, Nat.mod_lt _ (Nat.two_pow_pos _)⟩

end State.WidthsHold

/-! ### Operations, events and steps -/

/-- The rows of the decode step write `BF_ACC` by `SHIFT` and `CLEAR_BF` alone (R131, R132). -/
theorem RowEffect.keeps_widths (h : RowEffect s t) (hw : s.WidthsHold) : t.WidthsHold := by
  cases h with
  | error => exact hw.clearBf
  | zero | one | oneZero => exact hw.shiftIn _
  | zeroOne => exact (hw.shiftIn false).shiftIn true

theorem Effect.keeps_widths {i : Instr} (h : Effect s i t) (hp : s.params.WellFormed) (hw : s.WidthsHold) :
    t.WidthsHold := by
  cases h with
  | start f => exact hw.startTransfer f
  | result => exact hw
  | reset => exact .resetAll s
  | slot | turn | hbIdle => exact hw.enterHb
  | finish => exact hw.enterHb.endTransfer
  | stopIgnore | complete => exact hw.enterStop
  | discard => exact hw.enterStop.clearBf
  | capIgnore => exact hw.enterCap
  | fall => exact hw.enterCap.recordHigh
  | seed => exact hw.enterCap.recordLow.seed hp
  | order => exact hw.enterCap.clearBf
  | decode _ _ _ _ hr => exact hr.keeps_widths hw.enterCap.recordLow
  | row _ _ _ _ hr => exact hr.keeps_widths hw

theorem handle_keeps_widths {e : Event} (h : handle e s = .next t) (hp : s.params.WellFormed) (hw : s.WidthsHold) :
    t.WidthsHold := by
  obtain ⟨-, ⟨v, -, rfl⟩ | ⟨v, -, rfl⟩ | ⟨-, rfl⟩ | ⟨-, rfl⟩ | ⟨v, n, -, rfl⟩⟩ | ⟨cmd, i, -, -, hx⟩ := handle_cases h
  · exact hw.tick v
  · exact hw
  · exact hw
  · exact hw
  · exact hw.deliverCap v n
  · exact (exec_effect hx).keeps_widths hp hw

/-- Settles O20, by the effect of the operation an entry runs and of the event the environment takes. -/
theorem stepKeepsWidths : Obligations.StepKeepsWidths := by
  intro s t hw h
  obtain ⟨hp, ⟨-, i, u, -, hx, rfl⟩ | ⟨-, -, hx⟩ | ⟨-, e, es, -, hx⟩⟩ := step_cases h
  · exact (exec_effect hx).keeps_widths hp hw
  · exact handle_keeps_widths hx hp hw
  · exact handle_keeps_widths (s := s.withEnv es) hx hp hw

end Sys2Proof.Machine

/-! ## The Transfer State: legality, errors and reset

What 10_state asks of every step: the invariants of R43 hold after it, `ERR` is written by reception alone until a
START or a RESET clears it (R34), and RESET gives every register its value of R40. -/

namespace Sys2Proof.Machine

/-! ### RESET -/

/-- The status word of the reset registers: `POL` and `LAST_LEVEL` are 1, every other field is 0 (R40, R81). -/
theorem State.resetAll_statusWord (s : State) : s.resetAll.statusWord = 0x01000080 := by
  simp [State.statusWord]

/-- Settles O33: RESET is not guarded, so it answers in every state. -/
theorem resetWritesTable : Obligations.ResetWritesTable := by
  intro x s
  refine ⟨s.resetAll, rfl, ?_⟩
  simp [State.repeatFlag, State.run, State.resetAll_statusWord]

/-! ### Rule R43, state by state

In each of the three states the seven clauses come down to a list of facts about the other registers. -/

variable {s t : State}

/-- The seven clauses of R43, written out in order. -/
theorem State.legal_iff :
    s.Legal ↔
      (s.busy = true ↔ s.state ≠ stIdle) ∧
      (s.state = stSending → s.hbIdx.toNat ≤ 44 ∧ s.bfAcc = 0 ∧ s.bfDone = false ∧ s.prev = false ∧
        s.answerValid = false ∧ s.err = 0) ∧
      (s.state = stReceiving → s.hbIdx = 45) ∧
      (s.bfDone = true → 2 ≤ s.bfAcc ∧ s.state = stReceiving) ∧
      (s.bfAcc = 0 → s.prev = false) ∧
      (s.answerValid = true → s.state = stIdle) ∧
      s.state ≠ 3 ∧ s.err.toNat ≤ 4 ∧ s.hbIdx.toNat ≤ 45 := Iff.rfl

theorem State.legal_iff_of_idle (hs : s.state = stIdle) :
    s.Legal ↔ s.busy = false ∧ s.bfDone = false ∧ (s.bfAcc = 0 → s.prev = false) ∧ s.err.toNat ≤ 4 ∧
      s.hbIdx.toNat ≤ 45 := by
  simp [State.legal_iff, hs]

theorem State.legal_iff_of_sending (hs : s.state = stSending) :
    s.Legal ↔ s.busy = true ∧ s.hbIdx.toNat ≤ 44 ∧ s.bfAcc = 0 ∧ s.bfDone = false ∧ s.prev = false ∧
      s.answerValid = false ∧ s.err = 0 := by
  constructor
  · rintro ⟨hbusy, hclean, -⟩
    exact ⟨hbusy.mpr (by rw [hs]; decide), hclean hs⟩
  · rintro ⟨hbusy, hi, hacc, hdone, hprev, hvalid, herr⟩
    have hi' : s.hbIdx.toNat ≤ 45 := by omega
    simp [State.legal_iff, hs, hbusy, hi, hi', hacc, hdone, hprev, hvalid, herr]

theorem State.legal_iff_of_receiving (hs : s.state = stReceiving) :
    s.Legal ↔ s.busy = true ∧ s.hbIdx = 45 ∧ (s.bfDone = true → 2 ≤ s.bfAcc) ∧ (s.bfAcc = 0 → s.prev = false) ∧
      s.answerValid = false ∧ s.err.toNat ≤ 4 := by
  constructor
  · rintro ⟨hbusy, -, hidx, hdone, hprev, hvalid, -, herr, -⟩
    refine ⟨hbusy.mpr (by rw [hs]; decide), hidx hs, fun hd => (hdone hd).1, hprev, ?_, herr⟩
    exact Bool.eq_false_iff.mpr fun hv => absurd (hvalid hv) (by rw [hs]; decide)
  · rintro ⟨hbusy, hidx, hdone, hprev, hvalid, herr⟩
    simpa [State.legal_iff, hs, hbusy, hidx, hvalid, herr] using ⟨hdone, hprev⟩

/-! ### The operations keep R43

An update that writes none of the registers R43 speaks of (a flag, the counter, the line, an interval, a result) leaves
`Legal` the same proposition by definition, so only the others have a lemma. -/

theorem State.resetAll_legal (s : State) : s.resetAll.Legal :=
  (State.legal_iff_of_idle rfl).mpr (by simp)

theorem State.startTransfer_legal (s : State) (f : BitVec 16) : (s.startTransfer f).Legal :=
  (State.legal_iff_of_sending rfl).mpr (by simp)

namespace State.Legal

theorem emit (hl : s.Legal) (hs : s.state = stSending) (hi : s.hbIdx.toNat ≤ 43) (v : Level) : (s.emit v).Legal := by
  obtain ⟨hbusy, -, hclean⟩ := (State.legal_iff_of_sending hs).mp hl
  have hidx : (s.hbIdx + 1).toNat ≤ 44 := by bv_omega
  exact (State.legal_iff_of_sending (s := s.emit v) hs).mpr ⟨hbusy, hidx, hclean⟩

theorem turnAround (hl : s.Legal) (hs : s.state = stSending) (hi : s.hbIdx = 44) : s.turnAround.Legal := by
  obtain ⟨hbusy, -, hacc, hdone, hprev, hvalid, herr⟩ := (State.legal_iff_of_sending hs).mp hl
  exact (State.legal_iff_of_receiving rfl).mpr (by simp [*])

theorem endTransfer (hl : s.Legal) : s.endTransfer.Legal := by
  obtain ⟨-, -, -, -, -, -, -, herr, hidx⟩ := hl
  exact (State.legal_iff_of_idle rfl).mpr (by simp [*])

theorem markDone (hl : s.Legal) (hs : s.state = stReceiving) (h2 : 2 ≤ s.bfAcc) : s.markDone.Legal := by
  obtain ⟨hbusy, hidx, -, hrest⟩ := (State.legal_iff_of_receiving hs).mp hl
  exact (State.legal_iff_of_receiving (s := s.markDone) hs).mpr ⟨hbusy, hidx, fun _ => h2, hrest⟩

/-- In reception before completion, `BF_ACC` and `PREV` may take any values that keep clause (5), and `ERR` any code
up to 4. -/
theorem withFrame (hl : s.Legal) (hs : s.state = stReceiving) (hd : s.bfDone = false) {acc : Nat} {p : Bool}
    {c : BitVec 3} (hp : acc = 0 → p = false) (hc : c.toNat ≤ 4) :
    ({ s with bfAcc := acc, prev := p, err := c } : State).Legal := by
  obtain ⟨hbusy, hidx, -, -, hvalid, -⟩ := (State.legal_iff_of_receiving hs).mp hl
  exact (State.legal_iff_of_receiving (s := { s with bfAcc := acc, prev := p, err := c }) hs).mpr
    ⟨hbusy, hidx, by simp [hd], hp, hvalid, hc⟩

theorem recordError (hl : s.Legal) (hs : s.state = stReceiving) (hd : s.bfDone = false) {c : BitVec 3}
    (hc : c.toNat ≤ 4) : (s.recordError c).Legal :=
  hl.withFrame hs hd (fun _ => rfl) hc

theorem err_le (hl : s.Legal) : s.err.toNat ≤ 4 := by
  obtain ⟨-, -, -, -, -, -, -, herr, -⟩ := hl
  exact herr

end State.Legal

/-- `SHIFT(1)` leaves an odd accumulator, so that it is not empty even when the shift runs over `BF_W` bits (R131). -/
theorem State.shiftIn_true_bfAcc_ne_zero (hp : s.params.WellFormed) : (s.shiftIn true).bfAcc ≠ 0 := by
  obtain ⟨-, -, -, -, -, -, -, hbfW⟩ := hp
  have heven : 2 ∣ 2 ^ s.params.bfW := dvd_pow_self 2 (by omega)
  have hodd := Nat.mod_mod_of_dvd (2 * s.bfAcc + 1) heven
  simp only [State.shiftIn_bfAcc, Bool.toNat_true]
  omega

/-- The rows either leave `PREV` 0 or end with a `SHIFT(1)`, so clause (5) holds after them. -/
theorem RowEffect.keeps_legal (h : RowEffect s t) (hp : s.params.WellFormed) (hl : s.Legal) (hf : s.InFrame) :
    t.Legal := by
  obtain ⟨hs, -, hd⟩ := hf
  have herr := hl.err_le
  cases h with
  | error c hc => exact hl.recordError hs hd (by rcases hc with rfl | rfl | rfl <;> decide)
  | zero hprev => exact hl.withFrame hs hd (fun _ => hprev) herr
  | one => exact hl.withFrame hs hd (fun h0 => absurd h0 (State.shiftIn_true_bfAcc_ne_zero hp)) herr
  | oneZero => exact hl.withFrame hs hd (fun _ => rfl) herr
  | zeroOne =>
    exact hl.withFrame hs hd (fun h0 => absurd h0 (State.shiftIn_true_bfAcc_ne_zero (s := s.shiftIn false) hp)) herr

theorem Effect.keeps_legal {i : Instr} (h : Effect s i t) (hp : s.params.WellFormed) (hl : s.Legal) : t.Legal := by
  cases h with
  | start f => exact s.startTransfer_legal f
  | reset => exact s.resetAll_legal
  | result | hbIdle | stopIgnore | capIgnore | fall => exact hl
  | slot _ _ _ hs hi => exact State.Legal.emit (s := s.enterHb) hl hs hi _
  | turn _ _ hs hi => exact State.Legal.turnAround (s := s.enterHb) hl hs hi
  | finish => exact State.Legal.endTransfer (s := s.enterHb) hl
  | complete _ _ hf h2 =>
    obtain ⟨hs, -, -⟩ := hf
    exact State.Legal.markDone (s := s.enterStop) hl hs h2
  | discard _ _ hf =>
    obtain ⟨hs, -, hd⟩ := hf
    exact State.Legal.withFrame (s := s.enterStop) hl hs hd (fun _ => rfl) hl.err_le
  | seed _ _ hs _ hd =>
    exact State.Legal.withFrame (s := s.enterCap.recordLow) hl hs hd (fun h1 => absurd h1 (by decide)) hl.err_le
  | order _ _ hs hd => exact State.Legal.recordError (s := s.enterCap) (c := errOrder) hl hs hd (by decide)
  | decode _ _ _ hf hr => exact hr.keeps_legal hp hl hf
  | row _ _ _ hf hr => exact hr.keeps_legal hp hl hf

/-- A tick writes no register R43 speaks of. -/
theorem State.Legal.tick (hl : s.Legal) (v : Level) : (s.tick v).Legal := by
  simpa [State.legal_iff] using hl

theorem handle_keeps_legal {e : Event} (h : handle e s = .next t) (hp : s.params.WellFormed) (hl : s.Legal) :
    t.Legal := by
  obtain ⟨-, ⟨v, -, rfl⟩ | ⟨v, -, rfl⟩ | ⟨-, rfl⟩ | ⟨-, rfl⟩ | ⟨v, n, -, rfl⟩⟩ | ⟨cmd, i, -, -, hx⟩ := handle_cases h
  · exact hl.tick v
  · exact hl
  · exact hl
  · exact hl
  · exact hl
  · exact (exec_effect hx).keeps_legal hp hl

/-- Settles O19, by the effect of the operation an entry runs and of the event the environment takes. -/
theorem stepKeepsLegal : Obligations.StepKeepsLegal := by
  intro s t hl h
  obtain ⟨hp, ⟨-, i, u, -, hx, rfl⟩ | ⟨-, -, hx⟩ | ⟨-, e, es, -, hx⟩⟩ := step_cases h
  · exact (exec_effect hx).keeps_legal hp hl
  · exact handle_keeps_legal hx hp hl
  · exact handle_keeps_legal (s := s.withEnv es) hx hp hl

/-! ### What an entry and a caller's word can run -/

/-- The operations of the `dsel15` rows, which alone an entry runs (R83). -/
def isEntry : Instr → Bool
  | .encStart2 | .encData1 _ | .encData2 _ | .encStop | .encSettle _ | .encTurn | .encEnd | .hbIdle | .eofDetect
  | .stopIgnore | .capFall | .capSeed | .capDecode | .capOrder | .capIgnore => true
  | .start _ | .startRej _ | .readStatus _ | .reset _ | .decBadHigh _ _ | .decBadLow _ _ | .dec0SS | .dec0SL | .dec0LS
  | .dec0LL | .dec1SS | .dec1SL | .dec1LS | .dec1LL | .classify _ => false

@[simp] theorem toOption_ok (i : Instr) : toOption (.ok i) = some i := rfl
@[simp] theorem toOption_error (e : DecodeError) : toOption (.error e) = none := rfl

/-- Every branch of the selection is an entry or an error. -/
theorem all_isEntry_selectEntry (d : Dsel) : (toOption (selectEntry d)).all isEntry = true := by
  simp only [selectEntry, apply_ite toOption, apply_ite (Option.all isEntry), toOption_ok, toOption_error,
    Option.all_some, Option.all_none, isEntry, ite_self]

theorem isEntry_of_selectEntry {d : Dsel} {i : Instr} (h : selectEntry d = .ok i) : isEntry i = true := by
  simpa [h] using all_isEntry_selectEntry d

/-- The four `cmd25` rows, for the word the machine forms from a caller's (R80, R83). -/
theorem decodeCmd_packCmd_eq_ok {b : Bool} {op : BitVec 8} {x : BitVec 16} {i : Instr} :
    decodeCmd (packCmd b (cmdWord op x)) = .ok i ↔
      (op = 0x01 ∧ i = if b then .startRej x else .start x) ∨ (op = 0x02 ∧ i = .readStatus x) ∨
        (op = 0x03 ∧ i = .reset x) := by
  simp only [decodeCmd, cmdOp_packCmd, cmdOperand_packCmd, cmdBusy_packCmd]
  split_ifs <;> simp_all [eq_comm]

/-! ### What writes `ERR` -/

/-- An error as R200 records it: `ERR` takes a code 1 to 4 and the backward frame is emptied. -/
abbrev State.ErrorRecorded (t : State) : Prop := 1 ≤ t.err.toNat ∧ t.err.toNat ≤ 4 ∧ t.bfAcc = 0 ∧ t.prev = false

/-- Of the rows of the decode step, only those that record an error write `ERR`. -/
theorem RowEffect.errorRecorded (h : RowEffect s t) (hne : t.err ≠ s.err) : t.state = s.state ∧ t.ErrorRecorded := by
  cases h with
  | error c hc =>
    obtain ⟨hlo, hhi⟩ : 1 ≤ c.toNat ∧ c.toNat ≤ 4 := by rcases hc with rfl | rfl | rfl <;> decide
    exact ⟨rfl, hlo, hhi, rfl, rfl⟩
  | zero | one | oneZero | zeroOne => exact absurd rfl hne

/-- Of the entries, only a capture's of reception writes `ERR`: CAP_ORDER, or CAP_DECODE by an error row. -/
theorem exec_entry_errorRecorded {i : Instr} (hi : isEntry i = true) (h : exec i s = .next t) (hne : t.err ≠ s.err) :
    s.EvCap ∧ s.state = stReceiving ∧ s.bfDone = false ∧ t.state = stReceiving ∧ t.ErrorRecorded := by
  cases i with
  | capDecode =>
    obtain ⟨-, ⟨hcap, -, ⟨hs, -, hd⟩, -⟩, hx⟩ := execCapDecode_eq_next.mp h
    obtain ⟨-, -, hrow⟩ := decodeStep_rowEffect hx
    obtain ⟨hstate, hrec⟩ := hrow.errorRecorded hne
    exact ⟨hcap, hs, hd, hstate.trans hs, hrec⟩
  | capOrder =>
    obtain ⟨-, ⟨hcap, hs, hd, -⟩, rfl⟩ := execCapOrder_eq_next.mp h
    exact ⟨hcap, hs, hd, hs, by simp [State.ErrorRecorded]⟩
  | eofDetect =>
    obtain ⟨-, -, rfl⟩ := execEofDetect_eq_next.mp h
    exact absurd (by split <;> rfl) hne
  | encStart2 | encData1 | encData2 | encStop | encSettle | encTurn | encEnd | hbIdle | stopIgnore | capFall | capSeed
  | capIgnore =>
    simp only [exec, execEncStart2_eq_next, execEncData1_eq_next, execEncData2_eq_next, execEncStop_eq_next,
      execEncSettle_eq_next, execEncTurn_eq_next, execEncEnd_eq_next, execHbIdle_eq_next, execStopIgnore_eq_next,
      execCapFall_eq_next, execCapSeed_eq_next, execCapIgnore_eq_next] at h
    obtain ⟨-, -, rfl⟩ := h
    exact absurd rfl hne
  | start | startRej | readStatus | reset | decBadHigh | decBadLow | dec0SS | dec0SL | dec0LS | dec0LL | dec1SS
  | dec1SL | dec1LS | dec1LL | classify => simp [isEntry] at hi

/-- Of the environment's events, only an accepted START and a RESET write `ERR`, and they write 0 (R180, R230). -/
theorem handle_err_cleared {e : Event} (h : handle e s = .next t) (hne : t.err ≠ s.err) :
    t.err = 0 ∧ t.env = s.env ∧ ∃ op x, e = .call (cmdWord op x) ∧ (op = 0x01 ∨ op = 0x03) := by
  obtain ⟨-, ⟨v, -, rfl⟩ | ⟨v, -, rfl⟩ | ⟨-, rfl⟩ | ⟨-, rfl⟩ | ⟨v, n, -, rfl⟩⟩ | ⟨cmd, i, rfl, hi, hx⟩ := handle_cases h
  · exact absurd (s.tick_err v) hne
  · exact absurd rfl hne
  · exact absurd rfl hne
  · exact absurd rfl hne
  · exact absurd rfl hne
  · obtain ⟨op, x, rfl⟩ : ∃ op x, cmd = cmdWord op x := ⟨_, _, cmdWord_fields cmd⟩
    obtain ⟨hop, rfl⟩ | ⟨-, rfl⟩ | ⟨hop, rfl⟩ := decodeCmd_packCmd_eq_ok.mp hi
    · split at hx
      · obtain ⟨-, -, rfl⟩ := (execStartRej_eq_next (f := x)).mp hx
        exact absurd rfl hne
      · obtain ⟨-, -, rfl⟩ := execStart_eq_next.mp hx
        exact ⟨rfl, rfl, op, x, rfl, .inl hop⟩
    · obtain ⟨-, rfl⟩ := (execReadStatus_eq_next (x := x)).mp hx
      exact absurd rfl hne
    · obtain rfl := (execReset_eq_next (x := x)).mp hx
      exact ⟨rfl, rfl, op, x, rfl, .inr hop⟩

/-- Settles O28, by what writes `ERR` in an entry and in an event. -/
theorem errorsComeFromReception : Obligations.ErrorsComeFromReception := by
  intro s t _ h hne
  obtain ⟨-, ⟨he, i, u, hi, hx, rfl⟩ | ⟨-, -, hx⟩ | ⟨-, e, es, henv, hx⟩⟩ := step_cases h
  · obtain ⟨⟨hhb, hstop, hcap⟩, hs, hd, hs', hlo, hhi, hacc, hprev⟩ :=
      exec_entry_errorRecorded (isEntry_of_selectEntry hi) hx hne
    exact .inl ⟨he, hhb, hstop, hcap, hs, hd, hs', hlo, hhi, hacc, hprev⟩
  · obtain ⟨-, -, op, x, hcall, -⟩ := handle_err_cleared hx hne
    cases hcall
  · obtain ⟨herr, hes, op, x, hcall, hop⟩ := handle_err_cleared (s := s.withEnv es) hx hne
    exact .inr ⟨herr, e, es, op, x, henv, hcall, hes, hop⟩

end Sys2Proof.Machine

/-! ## The ownership of the Transfer State while a transfer runs

What 20_memory asks of every step of a busy core: only the dispatcher and RESET write the Transfer State (R58, R212),
the forward frame stays (R61), and the end of the transfer is one step (R59). -/

namespace Sys2Proof.Machine

variable {s t : State}

/-! ### The Transfer State without what lies outside it -/

/-- The registers the Line and the Timer write by themselves: the two input levels (R38, R216) and those of R36. -/
abbrev inputRegs : List Reg := [.rx, .prevRx, .cnt, .irHb, .irStop, .irCap, .capVal]

/-- `s` with `inputRegs`, the result port and the trace blanked: what is left of it agrees before and after a step that
writes no register of the Transfer State. -/
def State.transferState (s : State) : State :=
  { s with
    rx := true, prevRx := true, cnt := 0, irHb := false, irStop := false, irCap := false, capVal := 0, result := .none,
    env := [] }

theorem State.get_transferState {r : Reg} (hr : r ∉ inputRegs) : s.transferState.get r = s.get r := by
  cases r with
  | rx | prevRx | cnt | irHb | irStop | irCap | capVal => simp at hr
  | state | busy | hbIdx | pol | fwd | bfAcc | bfDone | prev | tHigh | tLow | lastLevel | answer | answerValid | err
  | repeatFlag => rfl

/-- A tick writes `inputRegs` alone (R213 to R217). -/
theorem State.tick_transferState (s : State) (v : Level) : (s.tick v).transferState = s.transferState := by
  simp [State.transferState]

/-! ### Entries -/

theorem RowEffect.busy_fwd (h : RowEffect s t) : t.busy = s.busy ∧ t.fwd = s.fwd := by
  cases h <;> exact ⟨rfl, rfl⟩

/-- START and RESET alone write `FWD` (R25, R230). -/
theorem Effect.entry_fwd {i : Instr} (h : Effect s i t) (hi : isEntry i = true) : t.fwd = s.fwd := by
  cases h with
  | start | reset => simp [isEntry] at hi
  | result | slot | turn | finish | hbIdle | stopIgnore | complete | discard | capIgnore | fall | seed | order => rfl
  | decode _ _ _ _ hr => exact hr.busy_fwd.2
  | row _ _ _ _ hr => exact hr.busy_fwd.2

/-- Of the entries, only ENC_END writes `BUSY` (R107). -/
theorem Effect.entry_busy {i : Instr} (h : Effect s i t) (hi : isEntry i = true) :
    t.busy = s.busy ∨ s.EvHb ∧ s.state = stReceiving ∧ t = s.enterHb.endTransfer := by
  cases h with
  | start | reset => simp [isEntry] at hi
  | finish _ he hs => exact .inr ⟨he, hs, rfl⟩
  | result | slot | turn | hbIdle | stopIgnore | complete | discard | capIgnore | fall | seed | order => exact .inl rfl
  | decode _ _ _ _ hr => exact .inl hr.busy_fwd.1
  | row _ _ _ _ hr => exact .inl hr.busy_fwd.1

/-! ### Events and steps -/

/-- While busy, an event of the environment keeps the Transfer State or is a RESET: a START is rejected (R181). -/
theorem handle_of_busy {e : Event} (h : handle e s = .next t) (hb : s.busy = true) :
    t.transferState = s.transferState ∨ ∃ x, e = .call (cmdWord 0x03 x) ∧ t = s.resetAll := by
  obtain ⟨-, ⟨v, -, rfl⟩ | ⟨v, -, rfl⟩ | ⟨-, rfl⟩ | ⟨-, rfl⟩ | ⟨v, n, -, rfl⟩⟩ | ⟨cmd, i, rfl, hi, hx⟩ := handle_cases h
  · exact .inl (s.tick_transferState v)
  · exact .inl rfl
  · exact .inl rfl
  · exact .inl rfl
  · exact .inl rfl
  · obtain ⟨op, x, rfl⟩ : ∃ op x, cmd = cmdWord op x := ⟨_, _, cmdWord_fields cmd⟩
    rw [hb] at hi
    obtain ⟨-, rfl⟩ | ⟨-, rfl⟩ | ⟨rfl, rfl⟩ := decodeCmd_packCmd_eq_ok.mp hi
    · obtain ⟨-, -, rfl⟩ := (execStartRej_eq_next (f := x)).mp hx
      exact .inl rfl
    · obtain ⟨-, rfl⟩ := (execReadStatus_eq_next (x := x)).mp hx
      exact .inl rfl
    · exact .inr ⟨x, rfl, (execReset_eq_next (x := x)).mp hx⟩

/-- A step of a busy core is an entry, or keeps the Transfer State, or is a RESET taken off the trace. -/
theorem step_of_busy (h : step s = .next t) (hb : s.busy = true) :
    (∃ i u, isEntry i = true ∧ Effect s i u ∧ s.entryNext = true ∧ t = u.withChained u.irq) ∨
      t.transferState = s.transferState ∨
      ∃ e es x, s.env = e :: es ∧ e.event = .call (cmdWord 0x03 x) ∧ t = (s.withEnv es).resetAll := by
  obtain ⟨-, ⟨he, i, u, hi, hx, ht⟩ | ⟨-, -, hx⟩ | ⟨-, e, es, henv, hx⟩⟩ := step_cases h
  · exact .inl ⟨i, u, isEntry_of_selectEntry hi, exec_effect hx, he, ht⟩
  · obtain hkeep | ⟨x, hcall, -⟩ := handle_of_busy hx hb
    · exact .inr (.inl hkeep)
    · cases hcall
  · obtain hkeep | ⟨x, hcall, ht⟩ := handle_of_busy (s := s.withEnv es) hx hb
    · exact .inr (.inl hkeep)
    · exact .inr (.inr ⟨e, es, x, henv, hcall, ht⟩)

/-! ### The two statements -/

/-- Settles O26, by the three kinds of step of a busy core: an entry is no START, and the second clause leaves only the
steps that keep the Transfer State. -/
theorem frameIsFixedDuringTransfer : Obligations.FrameIsFixedDuringTransfer := by
  intro s t _ h hb
  obtain ⟨i, u, hi, heff, he, rfl⟩ | hkeep | ⟨e, es, x, henv, hcall, rfl⟩ := step_of_busy h hb
  · exact ⟨fun _ => heff.entry_fwd hi, fun hno => absurd he (by simp [hno])⟩
  · refine ⟨fun _ => (congrArg State.fwd hkeep :), fun _ _ r hr => ?_⟩
    rw [← State.get_transferState hr, hkeep, State.get_transferState hr]
  · exact ⟨fun hbusy => by simp at hbusy, fun _ hno => absurd hcall (hno e es x henv)⟩

/-- Settles O29, by the three kinds of step of a busy core: of the entries only ENC_END lets `BUSY` fall, and R43 (6)
makes the `ANSWER_VALID` it finds 0. -/
theorem endOfTransferIsAtomic : Obligations.EndOfTransferIsAtomic := by
  intro s t hl h hb hidle
  have hfall : t.busy ≠ s.busy := by simp [hb, hidle]
  obtain ⟨i, u, hi, heff, -, rfl⟩ | hkeep | ⟨e, es, x, henv, hcall, rfl⟩ := step_of_busy h hb
  · obtain hsame | ⟨hhb, hs, rfl⟩ := heff.entry_busy hi
    · exact absurd hsame hfall
    · obtain ⟨-, -, -, -, hvalid, -⟩ := (State.legal_iff_of_receiving hs).mp hl
      exact .inl ⟨hs, hhb, by simp [hvalid], fun hd => by simp [hd], rfl⟩
  · exact absurd (congrArg State.busy hkeep) hfall
  · exact .inr ⟨e, es, x, henv, hcall, rfl, rfl, rfl⟩

end Sys2Proof.Machine

/-! ## The encodings

What 30_encoding asks of the words by themselves: the operation a word selects, the word of an operation, and the layout
of the status word. -/

namespace Sys2Proof

/-! ### What a `dsel15` word selects, source by source

In a word with no code of R84, the first match comes down to one list per source in the order of R152. -/

/-- The encoder's slot at a half-bit match in SENDING, for an index up to 44 (R153). -/
def slotEntry (i : BitVec 6) : Instr :=
  if i.toNat = 0 then .encStart2
  else if i.toNat ≤ 32 then (if i.toNat % 2 = 1 then .encData1 i else .encData2 i)
  else if i.toNat = 33 then .encStop
  else if i.toNat ≤ 43 then .encSettle i
  else .encTurn

/-- The entry that serves a capture, in the order of R157 to R161. -/
def captureEntry (d : Dsel) : Instr :=
  if d.state ≠ stReceiving ∨ d.bfDone = true then .capIgnore
  else if d.rx = d.lastLevel then .capOrder
  else if d.rx = false then .capFall
  else if d.accNz = false then .capSeed
  else .capDecode

variable {d : Dsel}

/-- Past the codes of R84, a half-bit match in SENDING is a choice by the index alone. -/
theorem selectEntry_of_slot (hhb : d.irHb = true) (hs : d.state = stSending) (hi : d.hbIdx.toNat ≤ 44) :
    selectEntry d = .ok (slotEntry d.hbIdx) := by
  have hlast : ¬ 45 < d.hbIdx.toNat := by omega
  rw [selectEntry, if_neg (by rw [hs]; decide), if_neg hlast]
  simp only [hhb, hs, BitVec.ofNat_eq_ofNat, ← BitVec.toNat_inj, BitVec.toNat_ofNat, Nat.reducePow, Nat.zero_mod,
    true_and, Nat.reduceMod, Nat.one_mod, OfNat.one_ne_ofNat, and_false, ↓reduceIte, one_ne_zero, false_and]
  unfold slotEntry
  grind

theorem selectEntry_of_stop (hs : d.state ≠ 3) (hi : d.hbIdx.toNat ≤ 45) (he : d.EvStop) :
    selectEntry d =
      .ok (if d.state = stReceiving ∧ d.accNz = true ∧ d.bfDone = false then .eofDetect else .stopIgnore) := by
  obtain ⟨hhb, hstop⟩ := he
  rw [selectEntry, if_neg hs, if_neg hi.not_gt]
  simp [Dsel.EvStop, hhb, hstop, apply_ite (Except.ok (ε := DecodeError))]

theorem selectEntry_of_capture (hs : d.state ≠ 3) (hi : d.hbIdx.toNat ≤ 45) (he : d.EvCap) :
    selectEntry d = .ok (captureEntry d) := by
  obtain ⟨hhb, hstop, hcap⟩ := he
  rw [selectEntry, if_neg hs, if_neg hi.not_gt]
  simp only [hhb, Bool.false_eq_true, BitVec.ofNat_eq_ofNat, false_and, ↓reduceIte, Dsel.EvStop, hstop, and_false,
    Dsel.EvCap, hcap, and_self, true_and]
  unfold captureEntry
  grind

theorem selectEntry_of_none (hs : d.state ≠ 3) (hi : d.hbIdx.toNat ≤ 45) (hhb : d.irHb = false)
    (hstop : d.irStop = false) (hcap : d.irCap = false) : selectEntry d = .error .noEntry := by
  rw [selectEntry, if_neg hs, if_neg hi.not_gt]
  simp [Dsel.EvStop, Dsel.EvCap, hhb, hstop, hcap]

theorem selectEntry_of_receiving (hhb : d.irHb = true) (hs : d.state = stReceiving) (hi : d.hbIdx.toNat ≤ 45) :
    selectEntry d = .ok .encEnd := by
  simp [selectEntry, hs, hi.not_gt, hhb]

theorem selectEntry_of_idle (hhb : d.irHb = true) (hs : d.state = stIdle) (hi : d.hbIdx.toNat ≤ 45) :
    selectEntry d = .ok .hbIdle := by
  simp [selectEntry, hs, hi.not_gt, hhb]

/-! ### The operations that a decoder answers are well formed -/

/-- The first matches of rows with an index put it in the row's range (R83). -/
theorem all_wellFormed_selectEntry (d : Dsel) : (toOption (selectEntry d)).all Instr.wellFormed = true := by
  simp only [selectEntry, apply_ite toOption, apply_ite (Option.all Instr.wellFormed), Machine.toOption_ok,
    Machine.toOption_error, Option.all_some, Option.all_none, Instr.wellFormed, ite_self]
  simp +contextual

theorem wellFormed_of_selectEntry {i : Instr} (h : selectEntry d = .ok i) : i.WellFormed := by
  simpa [h] using all_wellFormed_selectEntry d

/-- DEC_BAD_LOW is behind DEC_BAD_HIGH in the table, so its high class is valid (R134, R135). -/
theorem selectRow_wellFormed (prev : Bool) (high low : IntervalClass) : (selectRow prev high low).WellFormed := by
  cases high <;> cases low <;> cases prev <;> rfl

theorem wellFormed_of_decodeDkey {w : BitVec 5} {i : Instr} (h : decodeDkey w = .ok i) : i.WellFormed := by
  unfold decodeDkey at h
  split at h
  · cases h; exact selectRow_wellFormed ..
  · cases h

theorem wellFormed_of_decodeCmd {w : BitVec 25} {i : Instr} (h : decodeCmd w = .ok i) : i.WellFormed := by
  unfold decodeCmd at h
  split_ifs at h <;> cases h <;> rfl

/-- Settles O2, format by format. -/
theorem decodedIsWellFormed : Obligations.DecodedIsWellFormed := by
  intro w i h
  cases w with
  | cmd25 w => exact wellFormed_of_decodeCmd h
  | dsel15 w => exact wellFormed_of_selectEntry h
  | dkey5 w => exact wellFormed_of_decodeDkey h
  | interval32 w => cases h; rfl

/-! ### Decoding an encoded word -/

@[simp] theorem decode_packDsel (d : Dsel) : decode (.dsel15 (packDsel d)) = selectEntry d := by simp [decode]

@[simp] theorem decode_packDkey (prev : Bool) (high low : IntervalClass) :
    decode (.dkey5 (packDkey prev high low)) = .ok (selectRow prev high low) := by
  simp [decode, decodeDkey_packDkey]

theorem decode_packCmd_eq_ok {b : Bool} {op : BitVec 8} {x : BitVec 16} {i : Instr} :
    decode (.cmd25 (packCmd b (cmdWord op x))) = .ok i ↔
      (op = 0x01 ∧ i = if b then .startRej x else .start x) ∨ (op = 0x02 ∧ i = .readStatus x) ∨
        (op = 0x03 ∧ i = .reset x) := Machine.decodeCmd_packCmd_eq_ok

/-- A half-bit word of SENDING selects the encoder's slot at its index. -/
theorem decode_hbWord_sending {i : BitVec 6} (hi : i.toNat ≤ 44) : decode (hbWord stSending i) = .ok (slotEntry i) := by
  rw [hbWord, decode_packDsel, selectEntry_of_slot rfl rfl hi]

theorem slotEntry_of_odd {i : BitVec 6} (hodd : i.toNat % 2 = 1) (hi : i.toNat ≤ 31) : slotEntry i = .encData1 i := by
  rw [slotEntry, if_neg (by omega), if_pos (by omega), if_pos hodd]

theorem slotEntry_of_even {i : BitVec 6} (heven : i.toNat % 2 = 0) (h2 : 2 ≤ i.toNat) (hi : i.toNat ≤ 32) :
    slotEntry i = .encData2 i := by
  rw [slotEntry, if_neg (by omega), if_pos hi, if_neg (by omega)]

theorem slotEntry_of_settle {i : BitVec 6} (h34 : 34 ≤ i.toNat) (hi : i.toNat ≤ 43) : slotEntry i = .encSettle i := by
  rw [slotEntry, if_neg (by omega), if_neg (by omega), if_neg (by omega), if_pos hi]

/-- A stop word selects EOF_DETECT or STOP_IGNORE by its accumulator bit. -/
theorem decode_stopWord (accNz : Bool) :
    decode (stopWord accNz) = .ok (if accNz then .eofDetect else .stopIgnore) := by
  rw [stopWord, decode_packDsel, selectEntry_of_stop (by simp) (by simp) ⟨rfl, rfl⟩]
  simp

theorem decode_capWord {rx : Bool} {state : BitVec 2} {accNz lastLevel : Bool} (hs : state ≠ 3) :
    decode (capWord rx state accNz lastLevel) =
      .ok (if state ≠ stReceiving then .capIgnore else if rx = lastLevel then .capOrder else if rx = false then .capFall
        else if accNz = false then .capSeed else .capDecode) := by
  rw [capWord, decode_packDsel, selectEntry_of_capture hs (by simp) ⟨rfl, rfl, rfl⟩]
  simp [captureEntry]

/-- Settles O1, format by format: a CMD word's fields are read back, and the words of the entries are in the ranges of
their rows. -/
theorem decodeOfEncode : Obligations.DecodeOfEncode := by
  intro i hi
  cases i with
  | start | startRej | readStatus | reset => exact decode_packCmd_eq_ok.mpr (by simp)
  | encStart2 | encStop | encTurn => exact decode_hbWord_sending (by decide)
  | encData1 k =>
    obtain ⟨hodd, hk⟩ : k.toNat % 2 = 1 ∧ k.toNat ≤ 31 := by
      simpa [Instr.WellFormed, Instr.wellFormed] using hi
    rw [encode, decode_hbWord_sending (by omega), slotEntry_of_odd hodd hk]
  | encData2 k =>
    obtain ⟨⟨heven, h2⟩, hk⟩ : (k.toNat % 2 = 0 ∧ 2 ≤ k.toNat) ∧ k.toNat ≤ 32 := by
      simpa [Instr.WellFormed, Instr.wellFormed] using hi
    rw [encode, decode_hbWord_sending (by omega), slotEntry_of_even heven h2 hk]
  | encSettle k =>
    obtain ⟨h34, hk⟩ : 34 ≤ k.toNat ∧ k.toNat ≤ 43 := by
      simpa [Instr.WellFormed, Instr.wellFormed] using hi
    rw [encode, decode_hbWord_sending (by omega), slotEntry_of_settle h34 hk]
  | encEnd => rw [encode, hbWord, decode_packDsel, selectEntry_of_receiving rfl rfl (by decide)]
  | hbIdle => rw [encode, hbWord, decode_packDsel, selectEntry_of_idle rfl rfl (by decide)]
  | eofDetect | stopIgnore => exact decode_stopWord _
  | capFall | capSeed | capDecode | capOrder | capIgnore => exact decode_capWord (by decide)
  | decBadLow prev high =>
    cases high with
    | invalid => cases hi
    | short | long => exact decode_packDkey ..
  | decBadHigh | dec0SS | dec0SL | dec0LS | dec0LL | dec1SS | dec1SL | dec1LS | dec1LL => exact decode_packDkey ..
  | classify t => rfl

@[simp] theorem extractLsb'_cmdWord_op (op : BitVec 8) (x : BitVec 16) : (cmdWord op x).extractLsb' 16 8 = op :=
  BitVec.extractLsb'_append_eq_left

/-- Settles O3: the word is its op code over its operand, and only START's row looks at BUSY. -/
theorem encodeOfDecodedCommand : Obligations.EncodeOfDecodedCommand := by
  intro busy cmd i h
  obtain ⟨op, x, rfl⟩ : ∃ op x, cmd = cmdWord op x := ⟨_, _, cmdWord_fields cmd⟩
  obtain ⟨rfl, rfl⟩ | ⟨rfl, rfl⟩ | ⟨rfl, rfl⟩ := decode_packCmd_eq_ok.mp h
  · exact ⟨busy, by cases busy <;> rfl, fun _ => rfl⟩
  · exact ⟨false, rfl, fun h1 => by simp at h1⟩
  · exact ⟨false, rfl, fun h1 => by simp at h1⟩

/-- Settles O4, by running the decoder on each of the six words. -/
theorem handWrittenWordsDecode : Obligations.HandWrittenWordsDecode := by
  unfold Obligations.HandWrittenWordsDecode
  decide

end Sys2Proof

namespace Sys2Proof.Machine

/-! ### The entry of a state -/

/-- The three codes of STATE that R43 (7) leaves (R21). -/
theorem state_cases {x : BitVec 2} (h : x ≠ 3) : x = stIdle ∨ x = stSending ∨ x = stReceiving := by
  revert x; decide

/-- Settles O5, source by source in the order of R152. -/
theorem entrySelectionFollowsRules : Obligations.EntrySelectionFollowsRules := by
  intro s hl
  obtain ⟨-, hsend, -, -, -, -, h3, -, h45⟩ := hl
  rw [decode_dselWord]
  cases hhb : s.irHb with
  | true =>
    obtain hs | hs | hs := state_cases h3
    · rw [selectEntry_of_idle (d := s.dsel) hhb hs h45]
      simp [entryByRules, hhb, hs]
    · rw [selectEntry_of_slot (d := s.dsel) hhb hs (hsend hs).1]
      simp [entryByRules, hhb, hs, slotEntry, State.dsel, apply_ite some]
    · rw [selectEntry_of_receiving (d := s.dsel) hhb hs h45]
      simp [entryByRules, hhb, hs]
  | false =>
    cases hstop : s.irStop with
    | true =>
      rw [selectEntry_of_stop (d := s.dsel) h3 h45 ⟨hhb, hstop⟩]
      simp [entryByRules, hhb, hstop, State.dsel, State.accNz, apply_ite some]
    | false =>
      cases hcap : s.irCap with
      | true =>
        rw [selectEntry_of_capture (d := s.dsel) h3 h45 ⟨hhb, hstop, hcap⟩]
        simp [entryByRules, hhb, hstop, hcap, captureEntry, State.dsel, State.accNz, apply_ite some]
      | false =>
        rw [selectEntry_of_none (d := s.dsel) h3 h45 hhb hstop hcap]
        simp [entryByRules, hhb, hstop, hcap]

/-! ### The status word -/

/-- The status word, with the widths of its fields in its type (R81). -/
def State.statusFields (s : State) : BitVec (7 + 1 + 1 + 1 + 6 + 8 + 1 + 2 + 3 + 1 + 1) :=
  0#7 ++ BitVec.ofBool s.lastLevel ++ BitVec.ofBool s.prev ++ BitVec.ofBool s.bfDone ++ s.hbIdx ++ s.answer ++
    BitVec.ofBool s.pol ++ s.state ++ s.err ++ BitVec.ofBool s.answerValid ++ BitVec.ofBool s.busy

theorem State.getLsbD_statusWord (s : State) (k : Nat) : s.statusWord.getLsbD k = s.statusFields.getLsbD k := rfl

theorem State.extractLsb'_statusWord (s : State) (start len : Nat) :
    s.statusWord.extractLsb' start len = s.statusFields.extractLsb' start len := rfl

/-- Settles O6: past the fields below it, each field is the low part of what is left. -/
theorem statusWordLayout : Obligations.StatusWordLayout := by
  intro s
  refine ⟨?_, ?_, ?_, ?_, ?_, ?_, ?_, ?_, ?_, ?_, ?_⟩
  case refine_3 | refine_4 | refine_6 | refine_7 | refine_11 =>
    simp (disch := decide) only [State.extractLsb'_statusWord, State.statusFields, BitVec.extractLsb'_append_eq_of_le,
      BitVec.extractLsb'_append_eq_of_add_le]
    exact BitVec.extractLsb'_eq_self
  all_goals
    simp only [State.getLsbD_statusWord, State.statusFields, BitVec.getLsbD_append]
    simp

/-! ### The pseudo-operations -/

/-- A short address's selector byte is the address shifted left over a 1, as R87 writes it. -/
theorem selectorOf_eq (a : BitVec 6) : selectorOf a = (a.setWidth 8 <<< 1) ||| 1 := by
  apply BitVec.eq_of_getLsbD_eq
  intro k hk
  simp only [selectorOf, BitVec.getLsbD_append]
  cases k with
  | zero => simp
  | succ k =>
    have hk8 : k < 8 := by omega
    simpa [hk, hk8] using BitVec.lt_of_getLsbD

/-- A CMD word with START's op code is a START in an idle core (R80). -/
theorem decode_packCmd_start (f : BitVec 16) : decode (.cmd25 (packCmd false (cmdWord 0x01 f))) = .ok (.start f) :=
  decode_packCmd_eq_ok.mpr (.inl ⟨rfl, rfl⟩)

/-- Settles O52: each pseudo-operation is by definition the CMD word of a START. -/
theorem pseudoOperationsAreStarts : Obligations.PseudoOperationsAreStarts := by
  intro q a c
  rw [← selectorOf_eq]
  exact ⟨decode_packCmd_start _, decode_packCmd_start _, decode_packCmd_start _, decode_packCmd_start _,
    decode_packCmd_start _⟩

end Sys2Proof.Machine

/-! ## What a step runs

What 30_encoding asks of a step: the caller's word selects its operation (R80, R88), and a state that breaks R43 is a
fault (R84, R207). -/

namespace Sys2Proof.Machine

variable {s : State} {e : Stimulus} {es : List Stimulus} {i : Instr}

/-! ### The two kinds of step -/

theorem step_of_entryNext (hp : s.params.WellFormed) (h : s.entryNext = true) : step s = serveInterrupt s := by
  rw [step, if_neg (not_not.mpr hp), if_pos h]

theorem step_of_not_entryNext (hp : s.params.WellFormed) (h : s.entryNext = false) : step s = serveEnvironment s := by
  rw [step, if_neg (not_not.mpr hp), if_neg (by simp [h])]

theorem serveEnvironment_nil (henv : s.env = []) : serveEnvironment s = handle (.tick s.rx) s := by
  simp [serveEnvironment, henv]

theorem serveEnvironment_cons (henv : s.env = e :: es) : serveEnvironment s = handle e.event (s.withEnv es) := by
  simp [serveEnvironment, henv]

theorem runSelected_of_decode {w : SelWord} (h : decode w = .ok i) : runSelected w s = exec i s := by
  simp [runSelected, h]

/-- Settles O8: neither hypothesis lets an entry be due. -/
theorem stepServesCaller : Obligations.StepServesCaller := by
  intro s cmd first es i hp henv hgo hi
  have hno : s.entryNext = false := by
    obtain hirq | ⟨hch, hfirst⟩ := hgo
    · simp [State.entryNext, hirq]
    · simp [State.entryNext, hch, hfirst, henv, goesFirst]
  rw [step_of_not_entryNext hp hno, serveEnvironment_cons henv]
  exact runSelected_of_decode hi

/-! ### States that break R43 -/

theorem guarded_of_not_legal {sel : Prop} [Decidable sel] {k : Out} (hl : ¬ s.Legal) :
    guarded s sel k = .fault .brokenInvariant := if_neg hl

/-- Every entry is guarded. -/
theorem exec_entry_of_not_legal (hl : ¬ s.Legal) (hi : isEntry i = true) : exec i s = .fault .brokenInvariant := by
  cases i with
  | encStart2 | encData1 | encData2 | encStop | encSettle | encTurn | encEnd | hbIdle | eofDetect | stopIgnore | capFall
  | capSeed | capDecode | capOrder | capIgnore => exact guarded_of_not_legal hl
  | start | startRej | readStatus | reset | decBadHigh | decBadLow | dec0SS | dec0SL | dec0LS | dec0LL | dec1SS
  | dec1SL | dec1LS | dec1LL | classify => simp [isEntry] at hi

/-- A reserved op code is no error of an entry's word, so what selects no entry is a broken invariant (R84, R185). -/
theorem rejected_of_selectEntry {d : Dsel} {e : DecodeError} (h : selectEntry d = .error e) :
    rejected e = .fault .brokenInvariant := by
  cases e with
  | reservedOp op => simp [selectEntry, ite_eq_iff] at h
  | stateCode | halfBitIndex | noEntry | noRow | classCode => rfl

theorem serveInterrupt_of_not_legal (hl : ¬ s.Legal) : serveInterrupt s = .fault .brokenInvariant := by
  have hrun : runSelected (.dsel15 s.dselWord) s = .fault .brokenInvariant := by
    rw [runSelected, decode_dselWord]
    cases h : selectEntry s.dsel with
    | ok i => exact exec_entry_of_not_legal hl (isEntry_of_selectEntry h)
    | error e => exact rejected_of_selectEntry h
  rw [serveInterrupt, hrun, onNext]

/-- A START and a READ_STATUS are guarded (R180 to R182). -/
theorem handle_call_of_not_legal {cmd : BitVec 24} (hl : ¬ s.Legal)
    (hop : cmd.extractLsb' 16 8 = 0x01 ∨ cmd.extractLsb' 16 8 = 0x02) :
    handle (.call cmd) s = .fault .brokenInvariant := by
  obtain ⟨op, x, rfl⟩ : ∃ op x, cmd = cmdWord op x := ⟨_, _, cmdWord_fields cmd⟩
  rw [extractLsb'_cmdWord_op] at hop
  obtain rfl | rfl := hop
  · rw [handle, runSelected_of_decode (decode_packCmd_eq_ok.mpr (.inl ⟨rfl, rfl⟩))]
    split <;> exact guarded_of_not_legal hl
  · rw [handle, runSelected_of_decode (decode_packCmd_eq_ok.mpr (.inr (.inl ⟨rfl, rfl⟩)))]
    exact guarded_of_not_legal hl

/-- Every event but a RESET and a reserved op code is guarded (log 10). -/
theorem handle_of_not_legal {ev : Event} (hl : ¬ s.Legal)
    (hcall : ∀ cmd, ev = .call cmd → cmd.extractLsb' 16 8 = 0x01 ∨ cmd.extractLsb' 16 8 = 0x02) :
    handle ev s = .fault .brokenInvariant := by
  cases ev with
  | call cmd => exact handle_call_of_not_legal hl (hcall cmd rfl)
  | tick | line | evHb | evStop | evCap => exact guarded_of_not_legal hl

/-- Settles O12: whichever comes next, an entry or an event, is guarded. Taking the event off the trace leaves R43 as it
was. -/
theorem brokenInvariantIsAFault : Obligations.BrokenInvariantIsAFault := by
  intro s hp hl hnext
  by_cases he : s.entryNext = true
  · rw [step_of_entryNext hp he, serveInterrupt_of_not_legal hl]
  · have hcall := hnext.resolve_left he
    rw [step_of_not_entryNext hp (by simpa using he)]
    cases henv : s.env with
    | nil => rw [serveEnvironment_nil henv]; exact guarded_of_not_legal hl
    | cons e es =>
      rw [serveEnvironment_cons henv]
      exact handle_of_not_legal (s := s.withEnv es) hl fun cmd hev => hcall e es cmd henv hev

end Sys2Proof.Machine

/-! ## The waveform of the forward frame

What 30_encoding's R71 asks of every step: TX carries `ENC_POL` slot by slot while SENDING, and 1 otherwise. -/

namespace Sys2Proof.Machine

variable {s t : State}

/-! ### The updates that reach `POL`, `HB_IDX`, `FWD` or `STATE`

Every other update leaves `TxFollowsEncoder` the same proposition by definition. -/

namespace State.TxFollowsEncoder

theorem of_not_sending (hs : s.state ≠ stSending) (hpol : s.pol = true) : s.TxFollowsEncoder :=
  ⟨fun hsend => absurd hsend hs, fun _ => hpol⟩

/-- The slot after the one at `HB_IDX` carries its polarity: the new index is one more, so slot `HB_IDX` is the one it
names. -/
theorem emit (hs : s.state = stSending) (hi : s.hbIdx.toNat ≤ 43) :
    (s.emit (encPol s.fwd s.hbIdx.toNat)).TxFollowsEncoder := by
  have hnext : (s.hbIdx + 1).toNat = s.hbIdx.toNat + 1 := by bv_omega
  refine ⟨fun _ => ?_, fun hne => absurd hs hne⟩
  rw [State.emit_pol, State.emit_hbIdx, State.emit_fwd, hnext]
  simp

/-- At the turnaround TX already has the stop condition's level 1, which `POL` keeps (R106). -/
theorem turnAround (htx : s.TxFollowsEncoder) (hs : s.state = stSending) (hi : s.hbIdx = 44) :
    s.turnAround.TxFollowsEncoder := by
  have hpol : s.pol = true := by rw [htx.1 hs, hi]; rfl
  exact of_not_sending (by simp) hpol

theorem endTransfer (htx : s.TxFollowsEncoder) (hs : s.state = stReceiving) : s.endTransfer.TxFollowsEncoder := by
  have hpol : s.pol = true := htx.2 (by rw [hs]; decide)
  exact of_not_sending (by simp) hpol

/-- An accepted START puts the pre slot's 0 on TX (R180). -/
theorem startTransfer (s : State) (f : BitVec 16) : (s.startTransfer f).TxFollowsEncoder :=
  ⟨fun _ => rfl, fun hne => absurd rfl hne⟩

theorem resetAll (s : State) : s.resetAll.TxFollowsEncoder :=
  of_not_sending (by simp) rfl

theorem tick (htx : s.TxFollowsEncoder) (v : Level) : (s.tick v).TxFollowsEncoder := by
  simpa [State.TxFollowsEncoder] using htx

end State.TxFollowsEncoder

/-! ### Operations, events and steps -/

/-- The rows of the decode step write the backward frame and `ERR` alone. -/
theorem RowEffect.keeps_txFollowsEncoder (h : RowEffect s t) (htx : s.TxFollowsEncoder) : t.TxFollowsEncoder := by
  cases h <;> exact htx

theorem Effect.keeps_txFollowsEncoder {i : Instr} (h : Effect s i t) (htx : s.TxFollowsEncoder) :
    t.TxFollowsEncoder := by
  cases h with
  | start f => exact .startTransfer s f
  | reset => exact .resetAll s
  | slot _ _ _ hs hi => exact .emit (s := s.enterHb) hs hi
  | turn _ _ hs hi => exact State.TxFollowsEncoder.turnAround (s := s.enterHb) htx hs hi
  | finish _ _ hs => exact State.TxFollowsEncoder.endTransfer (s := s.enterHb) htx hs
  | result | hbIdle | stopIgnore | complete | discard | capIgnore | fall | seed | order => exact htx
  | decode _ _ _ _ hr => exact hr.keeps_txFollowsEncoder htx
  | row _ _ _ _ hr => exact hr.keeps_txFollowsEncoder htx

theorem handle_keeps_txFollowsEncoder {e : Event} (h : handle e s = .next t) (htx : s.TxFollowsEncoder) :
    t.TxFollowsEncoder := by
  obtain ⟨-, ⟨v, -, rfl⟩ | ⟨v, -, rfl⟩ | ⟨-, rfl⟩ | ⟨-, rfl⟩ | ⟨v, n, -, rfl⟩⟩ | ⟨cmd, i, -, -, hx⟩ := handle_cases h
  · exact htx.tick v
  · exact htx
  · exact htx
  · exact htx
  · exact htx
  · exact (exec_effect hx).keeps_txFollowsEncoder htx

/-- Settles O22, by the effect of the operation an entry runs and of the event the environment takes. -/
theorem stepKeepsTxOnWaveform : Obligations.StepKeepsTxOnWaveform := by
  intro s t _ htx h
  obtain ⟨-, ⟨-, i, u, -, hx, rfl⟩ | ⟨-, -, hx⟩ | ⟨-, e, es, -, hx⟩⟩ := step_cases h
  · exact (exec_effect hx).keeps_txFollowsEncoder htx
  · exact handle_keeps_txFollowsEncoder hx htx
  · exact handle_keeps_txFollowsEncoder (s := s.withEnv es) hx htx

end Sys2Proof.Machine

/-! ## A backward frame, capture by capture

What 30_encoding's R74 and R75 ask of the decoder: the captures of a start cell and of the cells of any bits that fit
leave `BF_ACC = 2^n + d`. Each edge is a round of two steps, the delivery of its capture and the entry that serves it. A
bit 1 is shifted in at its own rising edge; a bit 0 is a falling edge, and is shifted in at the rising edge after it,
alone or with the 1 that this edge is. -/

namespace Sys2Proof.Machine

variable {s s₀ t u : State} {acc n : Nat} {v level : Level} {es : List Stimulus} {bits : List Bool}

/-! ### Bits shifted into an accumulator -/

/-- The accumulator after the bits, the first the most significant, with no bit lost (R131). -/
def shiftAll (acc : Nat) (bits : List Bool) : Nat := bits.foldl (fun n b => 2 * n + b.toNat) acc

@[simp] theorem shiftAll_nil : shiftAll acc [] = acc := rfl
@[simp] theorem shiftAll_cons {b : Bool} : shiftAll acc (b :: bits) = shiftAll (2 * acc + b.toNat) bits := rfl

theorem le_shiftAll (acc : Nat) (bits : List Bool) : acc ≤ shiftAll acc bits := by
  induction bits generalizing acc with
  | nil => exact le_rfl
  | cons b bits ih =>
    have hstep : acc ≤ 2 * acc + b.toNat := by omega
    exact hstep.trans (ih _)

theorem shiftAll_eq (acc : Nat) (bits : List Bool) : shiftAll acc bits = acc * 2 ^ bits.length + bitsValue bits := by
  change _ = _ + shiftAll 0 bits
  induction bits generalizing acc with
  | nil => simp
  | cons b bits ih => rw [shiftAll_cons, ih, shiftAll_cons, ih (2 * 0 + b.toNat), List.length_cons, pow_succ]; ring

theorem shiftAll_lt {k : Nat} (h : acc < 2 ^ k) : shiftAll acc bits < 2 ^ (k + bits.length) := by
  induction bits generalizing acc k with
  | nil => exact h
  | cons b bits ih =>
    have hb : b.toNat ≤ 1 := b.toNat_le
    have hstep : 2 * acc + b.toNat < 2 ^ (k + 1) := by rw [pow_succ]; omega
    rw [shiftAll_cons, List.length_cons, ← Nat.add_assoc, Nat.add_right_comm]
    exact ih hstep

/-! ### The captures of a sequence of levels -/

/-- The capture of an edge, after the entries due. -/
def captureOf (e : Level × Nat) : Stimulus := { first := false, event := .evCap e.1 e.2 }

theorem replyEvents_eq (te gap : Nat) (bits : List Bool) :
    replyEvents te gap bits = (edges te true gap (halves (true :: bits) ++ [true])).map captureOf := rfl

@[simp] theorem halves_nil : halves [] = [] := rfl
@[simp] theorem halves_cons (v : Bool) (bits : List Bool) : halves (v :: bits) = (!v) :: v :: halves bits := rfl

@[simp] theorem edges_nil {te since : Nat} {l : Level} : edges te l since [] = [] := rfl

@[simp] theorem edges_keep {te since : Nat} {l : Level} {ls : List Level} :
    edges te l since (l :: ls) = edges te l (since + te) ls := by simp [edges]

@[simp] theorem edges_fall {te since : Nat} {ls : List Level} :
    edges te true since (false :: ls) = (false, since) :: edges te false te ls := by simp [edges]

@[simp] theorem edges_rise {te since : Nat} {ls : List Level} :
    edges te false since (true :: ls) = (true, since) :: edges te true te ls := by simp [edges]

/-! ### The decode step on the intervals of cells

The interval before a falling edge is LONG exactly when the bit before it is a 1 and its own bit a 0. -/

/-- The row for `PREV` and the two classes takes the frame `acc` to `acc'` and `PREV` to `prev'`, with no error. -/
def RowGives (p : Params) (acc : Nat) (prev : Bool) (high low : IntervalClass) (acc' : Nat) (prev' : Bool) : Prop :=
  ∀ s : State, s.Legal → s.InFrame → s.params = p → s.bfAcc = acc → s.prev = prev → s.highClass = high →
    s.lowClass = low → ∃ t, decodeStep s = .next t ∧ t.err = s.err ∧ t.bfAcc = acc' ∧ t.prev = prev'

variable {p : Params} {prev : Bool}

/-- A low interval of one half: the 0 of the falling edge (R136, R141). -/
theorem rowGives_zero (hfit : 2 * acc < 2 ^ p.bfW) :
    RowGives p acc prev (if prev then .long else .short) .short (2 * acc) false := by
  rintro s hl hf rfl rfl hprev hhigh hlow
  cases prev with
  | true =>
    refine ⟨(s.shiftIn false).setPrev false, ?_, rfl, Nat.mod_eq_of_lt hfit, rfl⟩
    rw [decodeStep_eq_exec, hprev, hhigh, hlow]
    exact decodeRow_eq_next.mpr ⟨hl, ⟨hf, hprev, hhigh, hlow⟩, rfl⟩
  | false =>
    refine ⟨s.shiftIn false, ?_, rfl, Nat.mod_eq_of_lt hfit, hprev⟩
    rw [decodeStep_eq_exec, hprev, hhigh, hlow]
    exact decodeRow_eq_next.mpr ⟨hl, ⟨hf, hprev, hhigh, hlow⟩, rfl⟩

/-- A low interval of two halves: the 0 of the falling edge, and the 1 of the rising edge (R138, R143). -/
theorem rowGives_zeroOne (hfit : 2 * (2 * acc) + 1 < 2 ^ p.bfW) :
    RowGives p acc prev (if prev then .long else .short) .long (2 * (2 * acc) + 1) true := by
  rintro s hl hf rfl rfl hprev hhigh hlow
  have hfit' : 2 * s.bfAcc < 2 ^ s.params.bfW := by omega
  refine ⟨((s.shiftIn false).shiftIn true).setPrev true, ?_, rfl, ?_, rfl⟩
  · rw [decodeStep_eq_exec, hprev, hhigh, hlow]
    cases prev <;> exact decodeRow_eq_next.mpr ⟨hl, ⟨hf, hprev, hhigh, hlow⟩, rfl⟩
  · simp [Nat.mod_eq_of_lt hfit, Nat.mod_eq_of_lt hfit']

/-- A falling edge at the border of two 1 cells is no bit: the 1 of the rising edge (R140). -/
theorem rowGives_one (hfit : 2 * acc + 1 < 2 ^ p.bfW) : RowGives p acc true .short .short (2 * acc + 1) true := by
  rintro s hl hf rfl rfl hprev hhigh hlow
  refine ⟨s.shiftIn true, ?_, rfl, Nat.mod_eq_of_lt hfit, hprev⟩
  rw [decodeStep_eq_exec, hprev, hhigh, hlow]
  exact decodeRow_eq_next.mpr ⟨hl, ⟨hf, hprev, hhigh, hlow⟩, rfl⟩

/-! ### One capture: its delivery, and the entry that serves it -/

/-- A frame `acc` before completion: the last edge went to `level`, and `es` are the events left, none ordered before an
entry. The parameters and `ERR` are those of `s₀`. -/
structure Reception (s₀ : State) (acc : Nat) (level : Level) (es : List Stimulus) (s : State) : Prop where
  params : s.params = s₀.params
  err : s.err = s₀.err
  legal : s.Legal
  state : s.state = stReceiving
  bfDone : s.bfDone = false
  bfAcc : s.bfAcc = acc
  lastLevel : s.lastLevel = level
  env : s.env = es
  ordered : ∀ e ∈ es, e.first = false

/-- Between two captures: nothing is pending. -/
structure Waiting (s₀ : State) (acc : Nat) (level : Level) (es : List Stimulus) (s : State) : Prop
    extends Reception s₀ acc level es s where
  quiet : s.irq = false

/-- Only a capture of the value `n` is pending, with the line at `v`. -/
structure Captured (s₀ : State) (acc : Nat) (level : Level) (es : List Stimulus) (v : Level) (n : Nat) (s : State) :
    Prop extends Reception s₀ acc level es s where
  evCap : s.EvCap
  rx : s.rx = v
  capVal : s.capVal = n % 2 ^ s₀.params.timerW

theorem State.irq_eq_false : s.irq = false ↔ s.irHb = false ∧ s.irStop = false ∧ s.irCap = false := by
  simp [State.irq, and_assoc]

theorem goesFirst_of_ordered (h : ∀ e ∈ es, e.first = false) : goesFirst es = false := by
  cases es with
  | nil => rfl
  | cons e es => exact h e List.mem_cons_self

theorem Waiting.deliver (hw : Waiting s₀ acc level (captureOf (v, n) :: es) s) (hp : s₀.params.WellFormed) :
    ∃ c, step s = .next c ∧ Captured s₀ acc level es v n c ∧ c.prev = s.prev ∧ c.highClass = s.highClass := by
  have hps : s.params.WellFormed := by rw [hw.params]; exact hp
  obtain ⟨hhb, hstop, -⟩ := State.irq_eq_false.mp hw.quiet
  refine ⟨(s.withEnv es).deliverCap v n, ?_, ?_, rfl, rfl⟩
  · rw [step_of_not_entryNext hps (by simp [State.entryNext, hw.quiet]), serveEnvironment_cons hw.env]
    exact guarded_pos hw.legal trivial
  · exact
      { params := hw.params, err := hw.err, legal := hw.legal, state := hw.state, bfDone := hw.bfDone,
        bfAcc := hw.bfAcc, lastLevel := hw.lastLevel, env := rfl, ordered := fun e he => hw.ordered e (List.mem_cons_of_mem _ he),
        evCap := ⟨hhb, hstop, rfl⟩, rx := rfl, capVal := by simp [hw.params] }

/-- The entry that a capture selects runs. If it keeps what is no part of the frame, and `ERR`, the decoder waits for
the next capture. -/
theorem Captured.serve (hc : Captured s₀ acc level es v n s) (hp : s₀.params.WellFormed) {i : Instr}
    (hentry : captureEntry s.dsel = i) (hx : exec i s = .next u)
    (hframe : u.params = s.params ∧ u.state = s.state ∧ u.bfDone = s.bfDone ∧ u.irq = s.enterCap.irq ∧ u.env = s.env)
    (herr : u.err = s.err) :
    ∃ t, step s = .next t ∧ Waiting s₀ u.bfAcc u.lastLevel es t ∧ t.prev = u.prev ∧ t.highClass = u.highClass := by
  have hps : s.params.WellFormed := by rw [hc.params]; exact hp
  obtain ⟨hhb, hstop, hcap⟩ := hc.evCap
  refine ⟨u.withChained u.irq, ?_, ?_, rfl, rfl⟩
  · have hnext : s.entryNext = true := by
      simp [State.entryNext, State.irq, hcap, hc.env, goesFirst_of_ordered hc.ordered]
    have hsel : selectEntry s.dsel = .ok i := by
      obtain ⟨-, -, -, -, -, -, h3, -, h45⟩ := hc.legal
      rw [← hentry]
      exact selectEntry_of_capture (d := s.dsel) h3 h45 hc.evCap
    rw [step_of_entryNext hps hnext, serveInterrupt, runSelected_of_decode ((decode_dselWord s).trans hsel), hx, onNext]
  · obtain ⟨hparams, hstate, hdone, hirq, henv⟩ := hframe
    exact
      { params := hparams.trans hc.params, err := herr.trans hc.err, legal := (exec_effect hx).keeps_legal hps hc.legal,
        state := hstate.trans hc.state, bfDone := hdone.trans hc.bfDone, bfAcc := rfl, lastLevel := rfl,
        env := henv.trans hc.env, ordered := hc.ordered,
        quiet := hirq.trans (State.irq_eq_false.mpr ⟨hhb, hstop, rfl⟩) }

/-! ### The three capture entries of a reply -/

/-- A falling edge: CAP_FALL records the high interval (R159). -/
theorem Captured.fall (hc : Captured s₀ acc true es false n s) (hp : s₀.params.WellFormed) :
    ∃ t, step s = .next t ∧ Waiting s₀ acc false es t ∧ t.prev = s.prev ∧
      t.highClass = classify s₀.params (n % 2 ^ s₀.params.timerW) := by
  have hentry : captureEntry s.dsel = .capFall := by
    simp [captureEntry, State.dsel, hc.state, hc.bfDone, hc.lastLevel, hc.rx]
  have hx : exec .capFall s = .next s.enterCap.recordHigh :=
    execCapFall_eq_next.mpr ⟨hc.legal, ⟨hc.evCap, hc.rx, hc.state, hc.bfDone, hc.lastLevel⟩, rfl⟩
  obtain ⟨t, hstep, ht, hprev, hhigh⟩ := hc.serve hp hentry hx ⟨rfl, rfl, rfl, rfl, rfl⟩ rfl
  refine ⟨t, hstep, by simpa [hc.bfAcc] using ht, hprev, ?_⟩
  rw [hhigh, State.highClass, State.recordHigh_tHigh, State.recordHigh_params, State.enterCap_capVal,
    State.enterCap_params, hc.params, hc.capVal]

/-- The first rising edge: CAP_SEED starts the frame with the start bit (R144, R160). -/
theorem Captured.seed (hc : Captured s₀ 0 false es true n s) (hp : s₀.params.WellFormed) :
    ∃ t, step s = .next t ∧ Waiting s₀ 1 true es t ∧ t.prev = true := by
  have hentry : captureEntry s.dsel = .capSeed := by
    simp [captureEntry, State.dsel, State.accNz, hc.state, hc.bfDone, hc.lastLevel, hc.rx, hc.bfAcc]
  have hx : exec .capSeed s = .next s.enterCap.recordLow.seed :=
    execCapSeed_eq_next.mpr ⟨hc.legal, ⟨hc.evCap, hc.rx, hc.state, hc.bfAcc, hc.bfDone, hc.lastLevel⟩, rfl⟩
  obtain ⟨t, hstep, ht, hprev, -⟩ := hc.serve hp hentry hx ⟨rfl, rfl, rfl, rfl, rfl⟩ rfl
  exact ⟨t, hstep, ht, hprev⟩

/-- The rows of the decode step keep what is no part of the frame, of `PREV` and of `ERR`. -/
theorem RowEffect.frame (h : RowEffect s t) :
    t.params = s.params ∧ t.state = s.state ∧ t.bfDone = s.bfDone ∧ t.irq = s.irq ∧ t.env = s.env ∧
      t.lastLevel = s.lastLevel := by
  cases h <;> exact ⟨rfl, rfl, rfl, rfl, rfl, rfl⟩

/-- Any later rising edge: CAP_DECODE runs the decode step on the two intervals (R161). -/
theorem Captured.decode (hc : Captured s₀ acc false es true n s) (hp : s₀.params.WellFormed) (hacc : acc ≠ 0)
    (hx : decodeStep s.enterCap.recordLow = .next u) (herr : u.err = s.err) :
    ∃ t, step s = .next t ∧ Waiting s₀ u.bfAcc true es t ∧ t.prev = u.prev := by
  have hne : s.bfAcc ≠ 0 := by rw [hc.bfAcc]; exact hacc
  have hentry : captureEntry s.dsel = .capDecode := by
    simp [captureEntry, State.dsel, State.accNz, hc.state, hc.bfDone, hc.lastLevel, hc.rx, hne]
  have hx' : exec .capDecode s = .next u :=
    execCapDecode_eq_next.mpr ⟨hc.legal, ⟨hc.evCap, hc.rx, ⟨hc.state, hne, hc.bfDone⟩, hc.lastLevel⟩, hx⟩
  obtain ⟨-, -, hrow⟩ := decodeStep_rowEffect hx
  obtain ⟨hparams, hstate, hdone, hirq, henv, hlast⟩ := hrow.frame
  obtain ⟨t, hstep, ht, hprev, -⟩ := hc.serve hp hentry hx' ⟨hparams, hstate, hdone, hirq, henv⟩ herr
  rw [hlast] at ht
  exact ⟨t, hstep, ht, hprev⟩

/-! ### The rounds of a reply

A round is the two steps of one capture. An interval of a valid class is captured whole. -/

/-- A valid interval is shorter than the watchdog's time, so it fits the timer (R7). -/
theorem lt_two_pow_timerW_of_classify (hp : p.WellFormed) (h : classify p n ≠ .invalid) :
    n < 2 ^ p.timerW := by
  obtain ⟨-, -, hgap, hwin, hstop, hwd, hfit, -⟩ := hp
  unfold classify at h
  split_ifs at h with hs hl
  · omega
  · omega
  · exact absurd rfl h

theorem classify_mod (hp : p.WellFormed) {c : IntervalClass} (h : classify p n = c) (hc : c ≠ .invalid) :
    classify p (n % 2 ^ p.timerW) = c := by
  rw [Nat.mod_eq_of_lt (lt_two_pow_timerW_of_classify hp (h ▸ hc)), h]

theorem runSteps_two {c : State} (h : step s = .next c) (h' : step c = .next t) : runSteps 2 s = .next t := by
  rw [runSteps_of_step h, runSteps_one, h']

namespace Waiting

variable (hp : s₀.params.WellFormed)
include hp

theorem fall (hw : Waiting s₀ acc true (captureOf (false, n) :: es) s) :
    ∃ t, runSteps 2 s = .next t ∧ Waiting s₀ acc false es t ∧ t.prev = s.prev ∧
      t.highClass = classify s₀.params (n % 2 ^ s₀.params.timerW) := by
  obtain ⟨c, hstep, hc, hprev, -⟩ := hw.deliver hp
  obtain ⟨t, hstep', ht, hprev', hhigh⟩ := hc.fall hp
  exact ⟨t, runSteps_two hstep hstep', ht, hprev'.trans hprev, hhigh⟩

theorem seed (hw : Waiting s₀ 0 false (captureOf (true, n) :: es) s) :
    ∃ t, runSteps 2 s = .next t ∧ Waiting s₀ 1 true es t ∧ t.prev = true := by
  obtain ⟨c, hstep, hc, -⟩ := hw.deliver hp
  obtain ⟨t, hstep', ht, hprev⟩ := hc.seed hp
  exact ⟨t, runSteps_two hstep hstep', ht, hprev⟩

/-- A later rising edge runs the row for `PREV`, the high interval recorded before and the low interval captured. -/
theorem rise (hw : Waiting s₀ acc false (captureOf (true, n) :: es) s) (hacc : acc ≠ 0) {low : IntervalClass}
    (hlow : classify s₀.params n = low) (hvalid : low ≠ .invalid) {acc' : Nat} {prev' : Bool}
    (hrow : RowGives s₀.params acc s.prev s.highClass low acc' prev') :
    ∃ t, runSteps 2 s = .next t ∧ Waiting s₀ acc' true es t ∧ t.prev = prev' := by
  obtain ⟨c, hstep, hc, hprev, hhigh⟩ := hw.deliver hp
  have hf : c.enterCap.recordLow.InFrame := ⟨hc.state, by simpa [hc.bfAcc] using hacc, hc.bfDone⟩
  have hlow' : c.enterCap.recordLow.lowClass = low := by
    simpa [State.lowClass, hc.params, hc.capVal] using classify_mod hp hlow hvalid
  obtain ⟨u, hx, herr, rfl, rfl⟩ := hrow c.enterCap.recordLow hc.legal hf hc.params hc.bfAcc hprev hhigh hlow'
  obtain ⟨t, hstep', ht, hprev'⟩ := hc.decode hp hacc hx herr
  exact ⟨t, runSteps_two hstep hstep', ht, hprev'⟩

/-- One half after the falling edge of a 0, the 0 is shifted in. -/
theorem zero (hw : Waiting s₀ acc false (captureOf (true, n) :: es) s) (hacc : acc ≠ 0)
    (hlow : classify s₀.params n = .short) (hhigh : s.highClass = if s.prev then .long else .short)
    (hfit : 2 * acc < 2 ^ s₀.params.bfW) :
    ∃ t, runSteps 2 s = .next t ∧ Waiting s₀ (2 * acc) true es t ∧ t.prev = false :=
  hw.rise hp hacc hlow (by decide) (hhigh ▸ rowGives_zero hfit)

/-- Two halves after the falling edge of a 0, the 0 and the 1 of the rising edge are shifted in. -/
theorem zeroOne (hw : Waiting s₀ acc false (captureOf (true, n) :: es) s) (hacc : acc ≠ 0)
    (hlow : classify s₀.params n = .long) (hhigh : s.highClass = if s.prev then .long else .short)
    (hfit : 2 * (2 * acc) + 1 < 2 ^ s₀.params.bfW) :
    ∃ t, runSteps 2 s = .next t ∧ Waiting s₀ (2 * (2 * acc) + 1) true es t ∧ t.prev = true :=
  hw.rise hp hacc hlow (by decide) (hhigh ▸ rowGives_zeroOne hfit)

/-- One half after a falling edge between two 1 cells, the second 1 is shifted in. -/
theorem one (hw : Waiting s₀ acc false (captureOf (true, n) :: es) s) (hacc : acc ≠ 0)
    (hlow : classify s₀.params n = .short) (hprev : s.prev = true) (hhigh : s.highClass = .short)
    (hfit : 2 * acc + 1 < 2 ^ s₀.params.bfW) :
    ∃ t, runSteps 2 s = .next t ∧ Waiting s₀ (2 * acc + 1) true es t ∧ t.prev = true :=
  hw.rise hp hacc hlow (by decide) (by rw [hprev, hhigh]; exact rowGives_one hfit)

end Waiting

/-! ### The cells of a reply -/

/-- The edges of the cells of `bits` and of the idle level after them, one half after the line went to `level`. -/
def cellEdges (te : Nat) (level : Level) (bits : List Bool) : List (Level × Nat) :=
  edges te level te (halves bits ++ [true])

@[simp] theorem cellEdges_true_nil {te : Nat} : cellEdges te true [] = [] := by simp [cellEdges]
@[simp] theorem cellEdges_false_nil {te : Nat} : cellEdges te false [] = [(true, te)] := by simp [cellEdges]
@[simp] theorem cellEdges_true_one {te : Nat} :
    cellEdges te true (true :: bits) = (false, te) :: (true, te) :: cellEdges te true bits := by simp [cellEdges]
@[simp] theorem cellEdges_true_zero {te : Nat} :
    cellEdges te true (false :: bits) = (false, 2 * te) :: cellEdges te false bits := by simp [cellEdges, two_mul]
@[simp] theorem cellEdges_false_one {te : Nat} :
    cellEdges te false (true :: bits) = (true, 2 * te) :: cellEdges te true bits := by simp [cellEdges, two_mul]
@[simp] theorem cellEdges_false_zero {te : Nat} :
    cellEdges te false (false :: bits) = (true, te) :: (false, te) :: cellEdges te false bits := by simp [cellEdges]

theorem replyEvents_eq_cellEdges (te gap : Nat) (bits : List Bool) :
    replyEvents te gap bits =
      captureOf (false, gap) :: captureOf (true, te) :: (cellEdges te true bits).map captureOf := by
  simp [replyEvents_eq, cellEdges]

/-- After the rounds of the captures `ks`, the decoder waits with the frame `acc` and the events `es`. -/
def Receives (s₀ : State) (ks : List (Level × Nat)) (acc : Nat) (es : List Stimulus) (s : State) : Prop :=
  ∃ t, runSteps (2 * ks.length) s = .next t ∧ Waiting s₀ acc true es t

theorem Receives.of_round {k : Level × Nat} {ks : List (Level × Nat)} (h : runSteps 2 s = .next t)
    (hr : Receives s₀ ks acc es t) : Receives s₀ (k :: ks) acc es s := by
  obtain ⟨r, hrun, hw⟩ := hr
  refine ⟨r, ?_, hw⟩
  rw [List.length_cons, Nat.mul_add, Nat.add_comm, runSteps_add h, hrun]

/-- The cells of `bits` are received after a 1: the frame holds every bit before them. -/
def ReceivesAfterOne (s₀ : State) (es : List Stimulus) (bits : List Bool) : Prop :=
  ∀ s acc, Waiting s₀ acc true ((cellEdges s₀.params.te true bits).map captureOf ++ es) s → s.prev = true → acc ≠ 0 →
    shiftAll acc bits < 2 ^ s₀.params.bfW →
    Receives s₀ (cellEdges s₀.params.te true bits) (shiftAll acc bits) es s

/-- The cells of `bits` are received after a 0: that 0 is not in the frame yet, and its high interval has the class that
the bit before it asks for. -/
def ReceivesAfterZero (s₀ : State) (es : List Stimulus) (bits : List Bool) : Prop :=
  ∀ s acc, Waiting s₀ acc false ((cellEdges s₀.params.te false bits).map captureOf ++ es) s →
    s.highClass = (if s.prev then .long else .short) → acc ≠ 0 → shiftAll acc (false :: bits) < 2 ^ s₀.params.bfW →
    Receives s₀ (cellEdges s₀.params.te false bits) (shiftAll acc (false :: bits)) es s

section Cells

variable (hp : s₀.params.WellFormed) (hshort : classify s₀.params s₀.params.te = .short)
  (hlong : classify s₀.params (2 * s₀.params.te) = .long)

theorem receivesAfterOne_nil : ReceivesAfterOne s₀ es [] := by
  intro s acc hw _ _ _
  exact ⟨s, rfl, by simpa using hw⟩

include hp hshort in
theorem receivesAfterZero_nil : ReceivesAfterZero s₀ es [] := by
  intro s acc hw hhigh hacc hfit
  simp only [shiftAll_cons, shiftAll_nil, Bool.toNat_false, Nat.add_zero, cellEdges_false_nil] at hw hfit ⊢
  obtain ⟨t, hrun, ht, -⟩ := hw.zero hp hacc hshort hhigh hfit
  exact .of_round hrun ⟨t, rfl, ht⟩

include hp hshort in
theorem ReceivesAfterOne.one (h : ReceivesAfterOne s₀ es bits) : ReceivesAfterOne s₀ es (true :: bits) := by
  intro s acc hw hprev hacc hfit
  simp only [shiftAll_cons, Bool.toNat_true, cellEdges_true_one] at hw hfit ⊢
  obtain ⟨t, hrun, ht, htprev, hhigh⟩ := hw.fall hp
  rw [classify_mod hp hshort (by decide)] at hhigh
  obtain ⟨u, hrun', hu, huprev⟩ :=
    ht.one hp hacc hshort (htprev.trans hprev) hhigh ((le_shiftAll _ bits).trans_lt hfit)
  exact .of_round hrun (.of_round hrun' (h u _ hu huprev (by omega) hfit))

include hp hlong in
theorem ReceivesAfterZero.zero_after_one (h : ReceivesAfterZero s₀ es bits) :
    ReceivesAfterOne s₀ es (false :: bits) := by
  intro s acc hw hprev hacc hfit
  simp only [cellEdges_true_zero] at hw ⊢
  obtain ⟨t, hrun, ht, htprev, hhigh⟩ := hw.fall hp
  rw [classify_mod hp hlong (by decide)] at hhigh
  exact .of_round hrun (h t acc ht (by simp [hhigh, htprev, hprev]) hacc hfit)

include hp hlong in
theorem ReceivesAfterOne.one_after_zero (h : ReceivesAfterOne s₀ es bits) :
    ReceivesAfterZero s₀ es (true :: bits) := by
  intro s acc hw hhigh hacc hfit
  simp only [shiftAll_cons, Bool.toNat_true, Bool.toNat_false, Nat.add_zero, cellEdges_false_one] at hw hfit ⊢
  obtain ⟨t, hrun, ht, htprev⟩ := hw.zeroOne hp hacc hlong hhigh ((le_shiftAll _ bits).trans_lt hfit)
  exact .of_round hrun (h t _ ht htprev (by omega) hfit)

include hp hshort in
theorem ReceivesAfterZero.zero (h : ReceivesAfterZero s₀ es bits) : ReceivesAfterZero s₀ es (false :: bits) := by
  intro s acc hw hhigh hacc hfit
  rw [shiftAll_cons, Bool.toNat_false, Nat.add_zero] at hfit ⊢
  simp only [cellEdges_false_zero] at hw ⊢
  obtain ⟨t, hrun, ht, htprev⟩ := hw.zero hp hacc hshort hhigh ((le_shiftAll _ (false :: bits)).trans_lt hfit)
  obtain ⟨u, hrun', hu, huprev, huhigh⟩ := ht.fall hp
  rw [classify_mod hp hshort (by decide)] at huhigh
  exact .of_round hrun (.of_round hrun' (h u _ hu (by simp [huhigh, huprev, htprev]) (by omega) hfit))

include hp hshort hlong in
theorem receivesAfter (bits : List Bool) : ReceivesAfterOne s₀ es bits ∧ ReceivesAfterZero s₀ es bits := by
  induction bits with
  | nil => exact ⟨receivesAfterOne_nil, receivesAfterZero_nil hp hshort⟩
  | cons b bits ih =>
    obtain ⟨hone, hzero⟩ := ih
    cases b with
    | true => exact ⟨hone.one hp hshort, hone.one_after_zero hp hlong⟩
    | false => exact ⟨hzero.zero_after_one hp hlong, hzero.zero hp hshort⟩

include hp hshort hlong in
/-- A reply of any bits that fit, from the start cell on, with any events after it: `BF_ACC` is the start bit's 1 and
then the bits. -/
theorem receives_reply {gap : Nat} (hw : Waiting s₀ 0 true (replyEvents s₀.params.te gap bits ++ es) s)
    (hfit : bits.length < s₀.params.bfW) :
    ∃ t, runSteps (2 * (replyEvents s₀.params.te gap bits).length) s = .next t ∧
      Waiting s₀ (2 ^ bits.length + bitsValue bits) true es t := by
  rw [replyEvents_eq_cellEdges] at hw ⊢
  obtain ⟨t, hrun, ht, -⟩ := hw.fall hp
  obtain ⟨u, hrun', hu, huprev⟩ := ht.seed hp
  have hlt : shiftAll 1 bits < 2 ^ s₀.params.bfW :=
    (shiftAll_lt (k := 1) (by decide)).trans_le (Nat.pow_le_pow_right (by decide) (by omega))
  have hcells := (receivesAfter hp hshort hlong bits).1 u 1 hu huprev (by decide) hlt
  obtain ⟨r, hr, hwait⟩ : Receives s₀ ((false, gap) :: (true, s₀.params.te) :: _) _ es s :=
    .of_round hrun (.of_round hrun' hcells)
  rw [shiftAll_eq, one_mul] at hwait
  exact ⟨r, by simpa using hr, hwait⟩

end Cells

theorem replyEvents_ordered {te gap : Nat} : ∀ e ∈ replyEvents te gap bits, e.first = false := by
  simp only [replyEvents_eq, List.forall_mem_map]
  exact fun _ _ => rfl

/-- Settles O59: the state itself waits for the reply's captures. -/
theorem replyIsDecoded : Obligations.ReplyIsDecoded := by
  intro s gap bits hp hl hs hacc hdone hlast hirq hshort hlong hfit henv
  have hw : Waiting s 0 true (replyEvents s.params.te gap bits ++ []) s := by
    rw [List.append_nil]
    exact
      { params := rfl, err := rfl, legal := hl, state := hs, bfDone := hdone, bfAcc := hacc, lastLevel := hlast,
        env := henv, ordered := replyEvents_ordered, quiet := hirq }
  obtain ⟨t, hrun, ht⟩ := receives_reply hp hshort hlong hw hfit
  exact ⟨t, hrun, ht.bfAcc, ht.state, ht.bfDone, ht.err, ht.lastLevel, ht.quiet, ht.env⟩

end Sys2Proof.Machine

/-! ## The encoder's polarities and its entries

What 40_encoder asks of one entry: the slot at `HB_IDX` drives its polarity and advances the index (R100 to R105), the
turnaround and the end of the transfer act as R106 and R107 say, and nothing else in the machine moves the index
(R108). -/

namespace Sys2Proof.Machine

variable {s t : State}

/-! ### The polarity function -/

theorem frameBit_odd (f : BitVec 16) (k : Nat) : frameBit f (2 * k + 1) = f.getLsbD (15 - k) := by
  rw [frameBit, ceilHalf, show 16 - (2 * k + 1 + 1) / 2 = 15 - k by omega]

theorem frameBit_even (f : BitVec 16) (k : Nat) : frameBit f (2 * k + 2) = f.getLsbD (15 - k) := by
  rw [frameBit, ceilHalf, show 16 - (2 * k + 2 + 1) / 2 = 15 - k by omega]

theorem encPol_odd {f : BitVec 16} {i : Nat} (hodd : i % 2 = 1) (hi : i ≤ 32) : encPol f i = !frameBit f i := by
  rw [encPol, if_neg (by omega), if_pos hi, if_pos hodd]

theorem encPol_even {f : BitVec 16} {i : Nat} (heven : i % 2 = 0) (h2 : 2 ≤ i) (hi : i ≤ 32) :
    encPol f i = frameBit f i := by
  rw [encPol, if_neg (by omega), if_pos hi, if_neg (by omega)]

theorem encPol_stop {f : BitVec 16} {i : Nat} (hi : 33 ≤ i) : encPol f i = true := by
  rw [encPol, if_neg (by omega), if_neg (by omega)]

/-- A list over twice as many indices, taken two at a time. -/
theorem map_range_two_mul {α : Type} (g : Nat → α) (n : Nat) :
    (List.range (2 * n)).map g = (List.range n).flatMap fun k => [g (2 * k), g (2 * k + 1)] := by
  induction n with
  | zero => rfl
  | succ n ih => simp [Nat.mul_succ, List.range_succ, ih]

/-- Settles O51: slots `2k + 1` and `2k + 2` are the two halves of the cell of bit `15 - k`. -/
theorem encoderPolaritiesAreCells : Obligations.EncoderPolaritiesAreCells := by
  intro f
  refine ⟨?_, rfl, fun i h33 _ => encPol_stop h33⟩
  rw [show 32 = 2 * 16 from rfl, map_range_two_mul, halves, frameBits, List.flatMap_map]
  refine List.flatMap_congr fun k hk => ?_
  have hk16 : k < 16 := List.mem_range.mp hk
  rw [encPol_odd (by omega) (by omega), encPol_even (by omega) (by omega) (by omega), frameBit_odd, frameBit_even]

/-! ### The entries of SENDING -/

/-- The registers that a slot's entry writes. -/
abbrev slotRegs : List Reg := [.pol, .hbIdx, .cnt, .irHb]

theorem onlyWrites_emit (s : State) (v : Level) : OnlyWrites slotRegs s (s.enterHb.emit v) := by
  refine ⟨fun r hr => ?_, rfl, rfl, rfl⟩
  cases r with
  | pol | hbIdx | cnt | irHb => simp at hr
  | state | busy | fwd | bfAcc | bfDone | prev | tHigh | tLow | lastLevel | answer | answerValid | err | repeatFlag
  | irStop | irCap | capVal | rx | prevRx => rfl

/-- The entry of every slot up to 43 is one polarity of the encoder (R101 to R105). -/
theorem exec_slotEntry (hl : s.Legal) (hhb : s.irHb = true) (hs : s.state = stSending) (hi : s.hbIdx.toNat ≤ 43) :
    exec (slotEntry s.hbIdx) s = .next (s.enterHb.emit (encPol s.fwd s.hbIdx.toNat)) := by
  unfold slotEntry
  split_ifs with h0 h32 hodd h33
  · exact execEncStart2_eq_next.mpr ⟨hl, ⟨hhb, hs, BitVec.eq_of_toNat_eq h0⟩, by rw [h0]; rfl⟩
  · rw [encPol_odd hodd h32]
    exact execEncData1_eq_next.mpr ⟨hl, ⟨hhb, hs, rfl, hodd, by omega⟩, rfl⟩
  · have hbit : frameBit s.fwd s.hbIdx.toNat = s.fwd.getLsbD (16 - s.hbIdx.toNat / 2) := by
      rw [frameBit, ceilHalf, show (s.hbIdx.toNat + 1) / 2 = s.hbIdx.toNat / 2 by omega]
    rw [encPol_even (by omega) (by omega) h32, hbit]
    exact execEncData2_eq_next.mpr ⟨hl, ⟨hhb, hs, rfl, by omega, by omega, h32⟩, rfl⟩
  · rw [encPol_stop (by omega)]
    exact execEncStop_eq_next.mpr ⟨hl, ⟨hhb, hs, BitVec.eq_of_toNat_eq h33⟩, rfl⟩
  · rw [encPol_stop (by omega)]
    exact execEncSettle_eq_next.mpr ⟨hl, ⟨hhb, hs, rfl, by omega, hi⟩, rfl⟩

/-- What the entry of a slot up to 43 writes, as the statements of R101 to R105 list it. -/
theorem exec_slotEntry_writes (hl : s.Legal) (hhb : s.irHb = true) (hs : s.state = stSending)
    (hi : s.hbIdx.toNat ≤ 43) :
    ∃ t, exec (slotEntry s.hbIdx) s = .next t ∧ t.pol = encPol s.fwd s.hbIdx.toNat ∧
      t.hbIdx.toNat = s.hbIdx.toNat + 1 ∧ t.cnt = 0 ∧ t.irHb = false ∧ t.result = s.result ∧
      OnlyWrites slotRegs s t := by
  have hnext : (s.hbIdx + 1).toNat = s.hbIdx.toNat + 1 := by bv_omega
  exact ⟨_, exec_slotEntry hl hhb hs hi, rfl, hnext, rfl, rfl, rfl, onlyWrites_emit s _⟩

/-- Settles O34: the slot at index 0. -/
theorem startBitSecondHalf : Obligations.StartBitSecondHalf := by
  intro s hl hhb hs hi
  obtain ⟨t, hx, hpol, hidx, hrest⟩ := exec_slotEntry_writes hl hhb hs (by rw [hi]; decide)
  rw [hi] at hx hpol hidx
  exact ⟨t, hx, hpol, BitVec.eq_of_toNat_eq hidx, hrest⟩

/-- Settles O35: the slots at 1 to 32, odd and even. -/
theorem dataBitHalves : Obligations.DataBitHalves := by
  rintro _ s hl hhb hs rfl h1 h32
  obtain ⟨t, hx, hpol, hrest⟩ := exec_slotEntry_writes hl hhb hs (by omega)
  constructor
  · intro hodd
    rw [slotEntry_of_odd hodd (by omega)] at hx
    rw [encPol_odd hodd h32] at hpol
    exact ⟨t, hx, hpol, hrest⟩
  · intro heven
    rw [slotEntry_of_even heven (by omega) h32] at hx
    rw [encPol_even heven (by omega) h32, frameBit, ceilHalf,
      show (s.hbIdx.toNat + 1) / 2 = s.hbIdx.toNat / 2 by omega] at hpol
    exact ⟨t, hx, hpol, hrest⟩

/-- Settles O36: the slots at 33 and at 34 to 43. -/
theorem stopAndSettleDriveOne : Obligations.StopAndSettleDriveOne := by
  intro s hl hhb hs
  constructor
  · intro hi
    obtain ⟨t, hx, hpol, hidx, hrest⟩ := exec_slotEntry_writes hl hhb hs (by rw [hi]; decide)
    rw [hi] at hx hpol hidx
    exact ⟨t, hx, hpol, BitVec.eq_of_toNat_eq hidx, hrest⟩
  · intro h34 h43
    obtain ⟨t, hx, hpol, hrest⟩ := exec_slotEntry_writes hl hhb hs h43
    rw [slotEntry_of_settle h34 h43] at hx
    rw [encPol_stop (by omega)] at hpol
    exact ⟨t, hx, hpol, hrest⟩

/-! ### The turnaround and the end of the transfer -/

theorem exec_encTurn (hl : s.Legal) (hhb : s.irHb = true) (hs : s.state = stSending) (hi : s.hbIdx = 44) :
    exec .encTurn s = .next s.enterHb.turnAround :=
  execEncTurn_eq_next.mpr ⟨hl, ⟨hhb, hs, hi⟩, rfl⟩

theorem exec_encEnd (hl : s.Legal) (hhb : s.irHb = true) (hs : s.state = stReceiving) :
    exec .encEnd s = .next s.enterHb.endTransfer :=
  execEncEnd_eq_next.mpr ⟨hl, ⟨hhb, hs⟩, rfl⟩

theorem onlyWrites_turnAround (s : State) :
    OnlyWrites [.state, .lastLevel, .hbIdx, .cnt, .irHb] s s.enterHb.turnAround := by
  refine ⟨fun r hr => ?_, rfl, rfl, rfl⟩
  cases r with
  | state | lastLevel | hbIdx | cnt | irHb => simp at hr
  | busy | pol | fwd | bfAcc | bfDone | prev | tHigh | tLow | answer | answerValid | err | repeatFlag | irStop | irCap
  | capVal | rx | prevRx => rfl

theorem onlyWrites_endTransfer (s : State) :
    OnlyWrites [.answer, .answerValid, .bfAcc, .bfDone, .prev, .busy, .state, .cnt, .irHb] s
      s.enterHb.endTransfer := by
  refine ⟨fun r hr => ?_, rfl, rfl, rfl⟩
  cases r with
  | answer | answerValid | bfAcc | bfDone | prev | busy | state | cnt | irHb => simp at hr
  | hbIdx | pol | fwd | tHigh | tLow | lastLevel | err | repeatFlag | irStop | irCap | capVal | rx | prevRx => rfl

/-- Settles O37: the backward frame is empty at the turnaround (R43 (2)), so that the stop match is not armed. -/
theorem turnaroundStartsReception : Obligations.TurnaroundStartsReception := by
  intro s hl hhb hs hi
  obtain ⟨-, -, hacc, -⟩ := (State.legal_iff_of_sending hs).mp hl
  have hidx : s.enterHb.turnAround.hbIdx = 45 := by rw [State.turnAround_hbIdx, State.enterHb_hbIdx, hi]; rfl
  have hstop : s.enterHb.turnAround.stopEn = false := by simp [State.stopEn, hacc]
  exact ⟨_, exec_encTurn hl hhb hs hi, rfl, rfl, hidx, rfl, rfl, rfl, rfl, hstop, rfl, onlyWrites_turnAround s⟩

/-- Settles O38: in reception the index is 45 and `ANSWER_VALID` is 0 before the entry (R43 (3), (6)). -/
theorem watchdogEndsTransfer : Obligations.WatchdogEndsTransfer := by
  intro s hl hhb hs
  obtain ⟨-, hidx, -, -, hvalid, -⟩ := (State.legal_iff_of_receiving hs).mp hl
  exact ⟨_, exec_encEnd hl hhb hs, fun hd => by simp [hd], fun hd => by simp [hd, hvalid], rfl, rfl, rfl, rfl, rfl, rfl,
    rfl, hidx, rfl, rfl, rfl, rfl, rfl, onlyWrites_endTransfer s⟩

/-! ### What moves the half-bit index -/

theorem RowEffect.hbIdx (h : RowEffect s t) : t.hbIdx = s.hbIdx := by
  cases h <;> rfl

/-- Of the entries, only the half-bit match's of SENDING write `HB_IDX`, and they add 1 (R108). -/
theorem Effect.entry_hbIdx {i : Instr} (h : Effect s i t) (hi : isEntry i = true) :
    t.hbIdx = s.hbIdx ∨ s.state = stSending ∧ s.irHb = true ∧ t.hbIdx.toNat = s.hbIdx.toNat + 1 := by
  cases h with
  | start | reset => simp [isEntry] at hi
  | slot _ _ he hs hi43 => exact .inr ⟨hs, he, by simp only [State.emit_hbIdx, State.enterHb_hbIdx]; bv_omega⟩
  | turn _ he hs hi44 => exact .inr ⟨hs, he, by simp [hi44]⟩
  | result | finish | hbIdle | stopIgnore | complete | discard | capIgnore | fall | seed | order => exact .inl rfl
  | decode _ _ _ _ hr => exact .inl hr.hbIdx
  | row _ _ _ _ hr => exact .inl hr.hbIdx

/-- An event of the environment keeps the Transfer State, or it is an accepted START or a RESET (R58, R180, R230). -/
theorem handle_transferState {e : Event} (h : handle e s = .next t) :
    t.transferState = s.transferState ∨
      (∃ x, e = .call (cmdWord 0x01 x) ∧ s.busy = false ∧ t = (s.startTransfer x).answerWith (.start true)) ∨
      ∃ x, e = .call (cmdWord 0x03 x) ∧ t = s.resetAll := by
  cases hb : s.busy with
  | true => exact (handle_of_busy h hb).imp_right .inr
  | false =>
    obtain ⟨-, ⟨v, -, rfl⟩ | ⟨v, -, rfl⟩ | ⟨-, rfl⟩ | ⟨-, rfl⟩ | ⟨v, n, -, rfl⟩⟩ | ⟨cmd, i, rfl, hi, hx⟩ :=
      handle_cases h
    · exact .inl (s.tick_transferState v)
    · exact .inl rfl
    · exact .inl rfl
    · exact .inl rfl
    · exact .inl rfl
    · obtain ⟨op, x, rfl⟩ : ∃ op x, cmd = cmdWord op x := ⟨_, _, cmdWord_fields cmd⟩
      rw [hb] at hi
      obtain ⟨rfl, rfl⟩ | ⟨-, rfl⟩ | ⟨rfl, rfl⟩ := decodeCmd_packCmd_eq_ok.mp hi
      · obtain ⟨-, -, ht⟩ := execStart_eq_next.mp hx
        exact .inr (.inl ⟨x, rfl, rfl, ht⟩)
      · obtain ⟨-, rfl⟩ := (execReadStatus_eq_next (x := x)).mp hx
        exact .inl rfl
      · exact .inr (.inr ⟨x, rfl, (execReset_eq_next (x := x)).mp hx⟩)

/-- Settles O27: an entry of SENDING adds 1, and an event that does not keep the Transfer State is a START or a RESET. -/
theorem indexOnlyAdvances : Obligations.IndexOnlyAdvances := by
  intro s t _ h hne
  obtain ⟨-, ⟨-, i, u, hi, hx, rfl⟩ | ⟨-, -, hx⟩ | ⟨-, e, es, henv, hx⟩⟩ := step_cases h
  · exact .inl (((exec_effect hx).entry_hbIdx (isEntry_of_selectEntry hi)).resolve_left hne)
  · obtain ⟨-, -, rfl⟩ := guarded_next_eq_next.mp hx
    exact absurd (s.tick_hbIdx s.rx) hne
  · obtain hkeep | ⟨x, hcall, hb, rfl⟩ | ⟨x, hcall, rfl⟩ := handle_transferState (s := s.withEnv es) hx
    · exact absurd (congrArg State.hbIdx hkeep) hne
    · exact .inr ⟨rfl, e, es, 0x01, x, henv, hcall, rfl, .inl ⟨rfl, hb, rfl⟩⟩
    · exact .inr ⟨rfl, e, es, 0x03, x, henv, hcall, rfl, .inr rfl⟩

end Sys2Proof.Machine

/-! ## A forward frame on the line

What 40_encoder's R110 asks of a run: from an accepted START on, the match comes every `TE` ticks, whatever the line does
and whoever calls meanwhile, and the entry at index 44 begins reception. A run takes one step for each event and one for
each entry, and the index it reaches is the number of entries. -/

namespace Sys2Proof.Machine

variable {s s₀ t u : State} {n k : Nat} {v level : Level} {e : Stimulus} {es : List Stimulus} {i : Instr}

/-! ### Single steps of a run -/

/-- A due entry runs the operation that the event word selects, and records whether a flag is left (R150, R163). -/
theorem step_of_entry (hp : s.params.WellFormed) (hnext : s.entryNext = true) (hsel : selectEntry s.dsel = .ok i)
    (hx : exec i s = .next t) : step s = .next (t.withChained t.irq) := by
  rw [step_of_entryNext hp hnext, serveInterrupt, runSelected_of_decode ((decode_dselWord s).trans hsel), hx, onNext]

theorem entryNext_of_quiet (hq : s.irq = false) : s.entryNext = false := by simp [State.entryNext, hq]

theorem step_of_event (hp : s.params.WellFormed) (hq : s.irq = false) (henv : s.env = e :: es) :
    step s = handle e.event (s.withEnv es) := by
  rw [step_of_not_entryNext hp (entryNext_of_quiet hq), serveEnvironment_cons henv]

theorem handle_tick (hl : s.Legal) (v : Level) : handle (.tick v) s = .next (s.tick v) := guarded_pos hl trivial

/-- With no event left a tick passes on a line that holds its level (log 3). -/
theorem step_of_silence (hp : s.params.WellFormed) (hl : s.Legal) (hq : s.irq = false) (henv : s.env = []) :
    step s = .next (s.tick s.rx) := by
  rw [step_of_not_entryNext hp (entryNext_of_quiet hq), serveEnvironment_nil henv, handle_tick hl]

/-- A run goes on with one step more. -/
theorem runSteps_succ_of_step (h : runSteps n s = .next t) (hstep : step t = .next u) :
    runSteps (n + 1) s = .next u := by
  rw [runSteps_add h, runSteps_one, hstep]

/-- In a busy core a START is rejected and a READ_STATUS answered, and neither writes more than the result (R181,
R182). -/
theorem handle_call_of_busy {cmd : BitVec 24} (hl : s.Legal) (hb : s.busy = true)
    (hop : cmd.extractLsb' 16 8 = 0x01 ∨ cmd.extractLsb' 16 8 = 0x02) :
    ∃ r, handle (.call cmd) s = .next (s.answerWith r) := by
  obtain ⟨op, x, rfl⟩ : ∃ op x, cmd = cmdWord op x := ⟨_, _, cmdWord_fields cmd⟩
  rw [extractLsb'_cmdWord_op] at hop
  obtain rfl | rfl := hop
  · refine ⟨.start false, ?_⟩
    rw [handle, hb, runSelected_of_decode (decode_packCmd_eq_ok.mpr (.inl ⟨rfl, rfl⟩))]
    exact (execStartRej_eq_next (f := x)).mpr ⟨hl, hb, rfl⟩
  · refine ⟨.status s.statusWord, ?_⟩
    rw [handle, runSelected_of_decode (decode_packCmd_eq_ok.mpr (.inr (.inl ⟨rfl, rfl⟩)))]
    exact (execReadStatus_eq_next (x := x)).mpr ⟨hl, rfl⟩

/-! ### The timer while SENDING -/

/-- A half-bit period is shorter than the watchdog's time, so it fits the timer (R7). -/
theorem te_lt_two_pow_timerW {p : Params} (hp : p.WellFormed) : p.te < 2 ^ p.timerW := by
  obtain ⟨-, -, -, -, -, hwd, hfit, -⟩ := hp
  have hhb : 0 < p.wdHb := Nat.pos_of_mul_pos_right (Nat.zero_lt_of_lt hwd)
  exact (Nat.le_mul_of_pos_left p.te hhb).trans_lt hfit

/-- While SENDING only the half-bit match is enabled (R37), so that a tick counts and raises that flag alone. -/
theorem State.tick_of_sending (hs : s.state = stSending) (hq : s.irq = false) (hfit : s.cnt + 1 < 2 ^ s.params.timerW)
    (v : Level) :
    (s.tick v).cnt = s.cnt + 1 ∧ ((s.tick v).irHb = true ↔ s.cnt + 1 = s.params.te) ∧ (s.tick v).irStop = false ∧
      (s.tick v).irCap = false := by
  obtain ⟨hhb, hstop, hcap⟩ := State.irq_eq_false.mp hq
  have hcnt : (s.tick v).cnt = s.cnt + 1 := by
    rw [State.tick_cnt, if_pos (by rw [State.run, hs]; rfl), Nat.mod_eq_of_lt hfit]
  refine ⟨hcnt, ?_, ?_, ?_⟩
  · simp [State.tick_irHb, hcnt, hhb, State.hbEn, State.mrHb, hs]
  · simp [State.tick_irStop, hstop, State.stopEn, hs]
  · simp [State.tick_irCap, hcap, State.capEn, hs]

/-! ### The state at a tick -/

/-- What a transmission keeps from the accepted START that left `s₀`: the frame and the answer, no error, no backward
frame. -/
abbrev SameTransfer (s₀ s : State) : Prop :=
  s.params = s₀.params ∧ s.fwd = s₀.fwd ∧ s.answer = s₀.answer ∧ s.err = 0 ∧ s.bfAcc = 0 ∧ s.bfDone = false

/-- `n` ticks after the accepted START that left `s₀`, with nothing pending: SENDING at index `n / TE`, or at index 45
reception with the line sampled. -/
structure OnAir (s₀ : State) (n : Nat) (s : State) : Prop where
  same : SameTransfer s₀ s
  legal : s.Legal
  quiet : s.irq = false
  ticks : s.hbIdx.toNat * s₀.params.te + s.cnt = n
  cnt_lt : s.cnt < s₀.params.te
  state : s.state = if s.hbIdx.toNat = 45 then stReceiving else stSending
  pol : s.pol = if s.hbIdx.toNat = 0 then s₀.pol else encPol s₀.fwd (s.hbIdx.toNat - 1)
  lastLevel : s.hbIdx.toNat = 45 → s.lastLevel = s.prevRx

namespace OnAir

theorem hbIdx_eq (h : OnAir s₀ n s) : s.hbIdx.toNat = n / s₀.params.te := by
  have hte := Nat.zero_lt_of_lt h.cnt_lt
  rw [← h.ticks, Nat.add_comm, Nat.add_mul_div_right _ _ hte, Nat.div_eq_of_lt h.cnt_lt, Nat.zero_add]

theorem cnt_eq (h : OnAir s₀ n s) : s.cnt = n % s₀.params.te := by
  rw [← h.ticks, Nat.mul_add_mod_self_right, Nat.mod_eq_of_lt h.cnt_lt]

theorem hbIdx_lt (h : OnAir s₀ n s) (hn : n < 45 * s₀.params.te) : s.hbIdx.toNat < 45 := by
  rw [h.hbIdx_eq]
  exact Nat.div_lt_of_lt_mul (by rwa [Nat.mul_comm])

theorem sending (h : OnAir s₀ n s) (hn : n < 45 * s₀.params.te) : s.state = stSending := by
  rw [h.state, if_neg (h.hbIdx_lt hn).ne]

theorem busy (h : OnAir s₀ n s) : s.busy = true := by
  obtain ⟨hbusy, -⟩ := h.legal
  refine hbusy.mpr ?_
  rw [h.state]
  split <;> decide

/-- The state that an accepted START leaves. -/
theorem refl (hp : s.params.WellFormed) (hl : s.Legal) (hs : s.state = stSending) (hi : s.hbIdx = 0) (hc : s.cnt = 0)
    (hq : s.irq = false) : OnAir s 0 s := by
  obtain ⟨-, -, hacc, hdone, -, -, herr⟩ := (State.legal_iff_of_sending hs).mp hl
  obtain ⟨hte, -⟩ := hp
  exact
    { same := ⟨rfl, rfl, rfl, herr, hacc, hdone⟩, legal := hl, quiet := hq, ticks := by simp [hi, hc],
      cnt_lt := by omega, state := by simp [hs, hi], pol := by simp [hi], lastLevel := by simp [hi] }

/-- The trace, the line, the result and the chain have no part in it. -/
theorem outside (h : OnAir s₀ n s) (es : List Stimulus) (v : Level) (r : Result) (b : Bool) :
    OnAir s₀ n { s with env := es, rx := v, result := r, chained := b } :=
  ⟨h.same, h.legal, h.quiet, h.ticks, h.cnt_lt, h.state, h.pol, h.lastLevel⟩

end OnAir

/-- `n` ticks after the accepted START that left `s₀`, at the end of a half-bit period: the match is pending, and nothing
else. -/
structure SlotDue (s₀ : State) (n : Nat) (s : State) : Prop where
  same : SameTransfer s₀ s
  legal : s.Legal
  state : s.state = stSending
  irHb : s.irHb = true
  irStop : s.irStop = false
  irCap : s.irCap = false
  ticks : (s.hbIdx.toNat + 1) * s₀.params.te = n
  pol : s.pol = if s.hbIdx.toNat = 0 then s₀.pol else encPol s₀.fwd (s.hbIdx.toNat - 1)
  prevRx : s.prevRx = s.rx

/-! ### One tick -/

section Tick

variable (hp : s₀.params.WellFormed) (hn : n < 45 * s₀.params.te)
include hp hn

/-- What a tick does: the count, and the half-bit match at the end of a period. -/
theorem OnAir.tick_timer (h : OnAir s₀ n s) (v : Level) :
    (s.tick v).cnt = s.cnt + 1 ∧ ((s.tick v).irHb = true ↔ s.cnt + 1 = s₀.params.te) ∧ (s.tick v).irStop = false ∧
      (s.tick v).irCap = false := by
  obtain ⟨hparams, -⟩ := h.same
  have hfit : s.cnt + 1 < 2 ^ s.params.timerW := by
    rw [hparams]
    exact (Nat.succ_le_of_lt h.cnt_lt).trans_lt (te_lt_two_pow_timerW hp)
  have htick := State.tick_of_sending (h.sending hn) h.quiet hfit v
  rwa [hparams] at htick

/-- Within a half-bit period a tick only counts. -/
theorem OnAir.tick_within (h : OnAir s₀ n s) (hc : s.cnt + 1 ≠ s₀.params.te) (v : Level) :
    OnAir s₀ (n + 1) (s.tick v) := by
  obtain ⟨hcnt, hhb, hstop, hcap⟩ := h.tick_timer hp hn v
  have hlt := h.cnt_lt
  have hidx := h.hbIdx_lt hn
  exact
    { same := by simpa [SameTransfer] using h.same, legal := h.legal.tick v
      quiet := State.irq_eq_false.mpr ⟨Bool.eq_false_iff.mpr (mt hhb.mp hc), hstop, hcap⟩
      ticks := by rw [State.tick_hbIdx, hcnt, ← h.ticks, Nat.add_assoc]
      cnt_lt := by omega
      state := by simpa using h.state, pol := by simpa using h.pol
      lastLevel := fun h45 => absurd h45 (by simpa using hidx.ne) }

/-- The last tick of a period makes the slot's entry due. -/
theorem OnAir.tick_due (h : OnAir s₀ n s) (hc : s.cnt + 1 = s₀.params.te) (v : Level) :
    SlotDue s₀ (n + 1) (s.tick v) := by
  obtain ⟨-, hhb, hstop, hcap⟩ := h.tick_timer hp hn v
  exact
    { same := by simpa [SameTransfer] using h.same, legal := h.legal.tick v, state := by simpa using h.sending hn
      irHb := hhb.mpr hc, irStop := hstop, irCap := hcap
      ticks := by rw [State.tick_hbIdx, Nat.succ_mul, ← hc, ← h.ticks, hc]; omega
      pol := by simpa using h.pol, prevRx := by simp }

end Tick

/-! ### The entry at the end of a period -/

namespace SlotDue

variable (hp : s₀.params.WellFormed)
include hp

/-- A slot from 0 to 43 leaves its polarity on TX and the next index (R101 to R105). -/
theorem emit (h : SlotDue s₀ n s) (hi : s.hbIdx.toNat ≤ 43) :
    OnAir s₀ n (s.enterHb.emit (encPol s.fwd s.hbIdx.toNat)) := by
  obtain ⟨hte, -⟩ := hp
  obtain ⟨-, hfwd, -⟩ := h.same
  have hidx : (s.enterHb.emit (encPol s.fwd s.hbIdx.toNat)).hbIdx.toNat = s.hbIdx.toNat + 1 := by
    simp only [State.emit_hbIdx, State.enterHb_hbIdx]
    bv_omega
  exact
    { same := h.same, legal := State.Legal.emit (s := s.enterHb) h.legal h.state hi _
      quiet := State.irq_eq_false.mpr ⟨rfl, h.irStop, h.irCap⟩
      ticks := by rw [hidx]; exact h.ticks
      cnt_lt := hte
      state := by rw [hidx, if_neg (by omega)]; exact h.state
      pol := by rw [hidx, if_neg (Nat.succ_ne_zero _), Nat.add_sub_cancel, State.emit_pol, hfwd]
      lastLevel := fun h45 => absurd (hidx.symm.trans h45) (by omega) }

/-- The turnaround leaves reception with the line sampled, and `POL` at the level 1 of the stop condition (R106). -/
theorem turnAround (h : SlotDue s₀ n s) (hi : s.hbIdx = 44) : OnAir s₀ n s.enterHb.turnAround := by
  obtain ⟨hte, -⟩ := hp
  exact
    { same := h.same, legal := State.Legal.turnAround (s := s.enterHb) h.legal h.state hi
      quiet := State.irq_eq_false.mpr ⟨rfl, h.irStop, h.irCap⟩
      ticks := by simpa [hi] using h.ticks
      cnt_lt := hte
      state := by simp [hi]
      pol := by simp [h.pol, hi, encPol_stop]
      lastLevel := fun _ => h.prevRx.symm }

/-- Whichever slot is due, one step serves it. -/
theorem serve (h : SlotDue s₀ n s) (hfirst : goesFirst s.env = false) :
    ∃ t, step s = .next t ∧ OnAir s₀ n t ∧ t.hbIdx.toNat = s.hbIdx.toNat + 1 ∧ t.env = s.env ∧ t.rx = s.rx ∧
      t.prevRx = s.rx := by
  obtain ⟨-, hi44, -⟩ := (State.legal_iff_of_sending h.state).mp h.legal
  obtain ⟨hparams, -⟩ := h.same
  have hps : s.params.WellFormed := by rw [hparams]; exact hp
  have hnext : s.entryNext = true := by simp [State.entryNext, State.irq, h.irHb, hfirst]
  have hsel : selectEntry s.dsel = .ok (slotEntry s.hbIdx) := selectEntry_of_slot (d := s.dsel) h.irHb h.state hi44
  by_cases hi : s.hbIdx.toNat ≤ 43
  · have hidx : (s.hbIdx + 1).toNat = s.hbIdx.toNat + 1 := by bv_omega
    exact ⟨_, step_of_entry hps hnext hsel (exec_slotEntry h.legal h.irHb h.state hi), (h.emit hp hi).outside _ _ _ _, hidx,
      rfl, rfl, h.prevRx⟩
  · have hi' : s.hbIdx = 44 := BitVec.eq_of_toNat_eq (by simp; omega)
    rw [hi'] at hsel ⊢
    exact ⟨_, step_of_entry hps hnext hsel (exec_encTurn h.legal h.irHb h.state hi'), (h.turnAround hp hi').outside _ _ _ _,
      by simp [hi'], rfl, rfl, h.prevRx⟩

end SlotDue

/-! ### A trace, event by event -/

/-- `s` is what a run from `s₀` reaches after `k` events of which `n` were ticks, with the entries they made due. The
events `es` are left, and lead the line to `level`. -/
structure Transmitted (s₀ : State) (level : Level) (k n : Nat) (es : List Stimulus) (s : State) : Prop
    extends OnAir s₀ n s where
  reached : runSteps (k + s.hbIdx.toNat) s₀ = .next s
  env : s.env = es
  line : levelAfter s.rx es = level

theorem goesFirst_of_undisturbed (h : undisturbed es = true) : goesFirst es = false := by
  cases es with
  | nil => rfl
  | cons e es =>
    obtain ⟨hfirst, -⟩ := undisturbed_cons.mp h
    exact hfirst

namespace Transmitted

variable (hp : s₀.params.WellFormed)
include hp

theorem wellFormed (h : Transmitted s₀ level k n es s) : s.params.WellFormed := by
  obtain ⟨hparams, -⟩ := h.same
  rw [hparams]
  exact hp

/-- A tick is one step, or two when it ends a half-bit period. -/
theorem tick_of_step (hreach : runSteps (k + s.hbIdx.toNat) s₀ = .next s) (h : OnAir s₀ n u)
    (hidx : u.hbIdx = s.hbIdx) (hstep : step s = .next (u.tick v)) (hn : n + 1 ≤ 45 * s₀.params.te)
    (hfirst : goesFirst u.env = false) :
    ∃ t, Transmitted s₀ (levelAfter v u.env) (k + 1) (n + 1) u.env t ∧ t.prevRx = t.rx := by
  have htick : runSteps (k + 1 + (u.tick v).hbIdx.toNat) s₀ = .next (u.tick v) := by
    rw [State.tick_hbIdx, hidx, Nat.add_right_comm]
    exact runSteps_succ_of_step hreach hstep
  by_cases hc : u.cnt + 1 = s₀.params.te
  · have hdue := h.tick_due hp hn hc v
    obtain ⟨t, hserve, ht, hti, henv, hrx, hprev⟩ := hdue.serve hp (by simpa using hfirst)
    refine ⟨t, { toOnAir := ht, reached := ?_, env := by simpa using henv, line := by simp [hrx] }, hprev.trans hrx.symm⟩
    rw [hti, ← Nat.add_assoc]
    exact runSteps_succ_of_step htick hserve
  · exact ⟨u.tick v, { toOnAir := h.tick_within hp hn hc v, reached := htick, env := by simp, line := by simp }, by simp⟩

/-- The next event of an undisturbed trace. -/
theorem event (h : Transmitted s₀ level k n (e :: es) s) (hund : undisturbed (e :: es) = true)
    (hn : n + ticksIn [e] ≤ 45 * s₀.params.te) : ∃ t, Transmitted s₀ level (k + 1) (n + ticksIn [e]) es t := by
  obtain ⟨-, hev, hes⟩ := undisturbed_cons.mp hund
  obtain ⟨first, ev⟩ := e
  have hair : OnAir s₀ n (s.withEnv es) := h.toOnAir.outside es _ _ _
  have hstep := step_of_event (h.wellFormed hp) h.quiet h.env
  have hreach : ∀ {t : State}, step s = .next t → t.hbIdx = s.hbIdx →
      runSteps (k + 1 + t.hbIdx.toNat) s₀ = .next t := fun ht hidx => by
    rw [hidx, Nat.add_right_comm]
    exact runSteps_succ_of_step h.reached ht
  obtain ⟨v, rfl⟩ | ⟨v, rfl⟩ | ⟨cmd, rfl, hop⟩ := Event.undisturbing_iff.mp hev
  · rw [handle_tick hair.legal] at hstep
    obtain ⟨t, ht, -⟩ := tick_of_step hp h.reached hair rfl hstep hn (goesFirst_of_undisturbed hes)
    have hline : levelAfter v es = level := h.line
    exact ⟨t, hline ▸ ht⟩
  · have ht : step s = .next ((s.withEnv es).setRx v) := hstep.trans (guarded_pos hair.legal trivial)
    exact ⟨_, { toOnAir := hair.outside es v _ _, reached := hreach ht rfl, env := rfl, line := h.line }⟩
  · obtain ⟨r, hr⟩ := handle_call_of_busy hair.legal hair.busy hop
    exact ⟨_, { toOnAir := hair.outside es _ r _, reached := hreach (hstep.trans hr) rfl, env := rfl, line := h.line }⟩

/-- A whole undisturbed trace, up to the turnaround. -/
theorem events (h : Transmitted s₀ level k n es s) (hund : undisturbed es = true)
    (hn : n + ticksIn es ≤ 45 * s₀.params.te) :
    ∃ t, Transmitted s₀ level (k + es.length) (n + ticksIn es) [] t := by
  induction es generalizing s k n with
  | nil => exact ⟨s, h⟩
  | cons e es ih =>
    obtain ⟨-, -, hes⟩ := undisturbed_cons.mp hund
    rw [← List.singleton_append, ticksIn_append, ← Nat.add_assoc] at hn ⊢
    obtain ⟨u, hu⟩ := h.event hp hund (by omega)
    obtain ⟨t, ht⟩ := ih hu hes hn
    rw [List.singleton_append, List.length_cons, Nat.add_comm es.length, ← Nat.add_assoc]
    exact ⟨t, ht⟩

/-- After the trace, ticks on a line that holds its level (log 3). -/
theorem silence (h : Transmitted s₀ level k n [] s) (m : Nat) (hn : n + m ≤ 45 * s₀.params.te) :
    ∃ t, Transmitted s₀ level (k + m) (n + m) [] t ∧ (0 < m → t.prevRx = t.rx) := by
  induction m with
  | zero => exact ⟨s, h, fun h0 => absurd h0 (lt_irrefl 0)⟩
  | succ m ih =>
    obtain ⟨u, hu, -⟩ := ih (by omega)
    have hstep := step_of_silence (hu.wellFormed hp) hu.legal hu.quiet hu.env
    have hline : levelAfter u.rx [] = level := hu.line
    obtain ⟨t, ht, hprev⟩ := tick_of_step hp hu.reached hu.toOnAir rfl hstep hn (by rw [hu.env]; rfl)
    rw [hu.env, hline] at ht
    exact ⟨t, ht, fun _ => hprev⟩

end Transmitted

/-- From an accepted START, an undisturbed trace and then `m` ticks on a line that holds its level. -/
theorem transmits (hp : s.params.WellFormed) (hl : s.Legal) (hs : s.state = stSending) (hi : s.hbIdx = 0)
    (hc : s.cnt = 0) (hq : s.irq = false) (hund : undisturbed s.env = true) {m : Nat}
    (hn : ticksIn s.env + m ≤ 45 * s.params.te) :
    ∃ t, Transmitted s (levelAfter s.rx s.env) (s.env.length + m) (ticksIn s.env + m) [] t ∧
      (0 < m → t.prevRx = t.rx) := by
  have hstart : Transmitted s (levelAfter s.rx s.env) 0 0 s.env s :=
    { toOnAir := .refl hp hl hs hi hc hq, reached := by simp [hi, runSteps], env := rfl, line := rfl }
  obtain ⟨u, hu⟩ := hstart.events hp hund (by omega)
  rw [Nat.zero_add, Nat.zero_add] at hu
  exact hu.silence hp m hn

/-! ### The two statements -/

/-- The polarity of a transmission from an accepted START, whose pre slot is 0, is the waveform (R71). -/
theorem OnAir.tx_eq_waveform (h : OnAir s₀ n s) (hpol : s₀.pol = false) (hn : n < 45 * s₀.params.te) :
    s.tx = waveform s₀.params s₀.fwd n := by
  have hle : n / s₀.params.te ≤ 44 := by
    have hlt := h.hbIdx_lt hn
    rw [← h.hbIdx_eq]
    omega
  rw [State.tx, h.pol, waveform, h.hbIdx_eq, if_pos hle, hpol]

/-- Settles O53: the state that the trace and the ticks after it lead to is on the air, in the slot `n / TE`. -/
theorem transmissionFollowsWaveform : Obligations.TransmissionFollowsWaveform := by
  rintro s hp hl hs hi hc hpol hq _ m n rfl hund rfl hn
  obtain ⟨t, ht, -⟩ := transmits hp hl hs hi hc hq hund hn.le
  obtain ⟨-, hfwd, -⟩ := ht.same
  refine ⟨t, ?_, ht.sending hn, ht.hbIdx_eq, ht.cnt_eq, ht.tx_eq_waveform hpol hn, hfwd, ht.env⟩
  rw [← ht.hbIdx_eq]
  exact ht.reached

/-- The state `45 * TE` ticks after an accepted START. -/
theorem OnAir.reception (h : OnAir s₀ (45 * s₀.params.te) s) :
    s.state = stReceiving ∧ s.hbIdx = 45 ∧ s.cnt = 0 ∧ s.tx = true ∧ s.lastLevel = s.prevRx := by
  have hte : 0 < s₀.params.te := Nat.zero_lt_of_lt h.cnt_lt
  have hidx : s.hbIdx.toNat = 45 := by rw [h.hbIdx_eq, Nat.mul_div_cancel _ hte]
  refine ⟨by rw [h.state, if_pos hidx], BitVec.eq_of_toNat_eq hidx, by rw [h.cnt_eq, Nat.mul_mod_left], ?_,
    h.lastLevel hidx⟩
  rw [State.tx, h.pol, hidx, if_neg (by decide), encPol_stop (by decide)]

/-- Settles O54: the state after all `45 * TE` ticks, whatever events that are no ticks come after the turnaround. -/
theorem receptionStartsOnTime : Obligations.ReceptionStartsOnTime := by
  rintro s hp hl hs hi hc hq _ m rfl hund hn
  obtain ⟨t, ht, hheld⟩ := transmits hp hl hs hi hc hq hund hn.le
  have hair := ht.toOnAir
  rw [hn] at hair
  obtain ⟨hstate, hidx, hcnt, htx, hlast⟩ := hair.reception
  obtain ⟨-, hfwd, -⟩ := ht.same
  have hreach := ht.reached
  rw [hidx] at hreach
  exact ⟨t, hreach, hstate, hidx, hcnt, htx, ht.line, hlast, fun hm => hlast.trans (hheld hm), ht.quiet, hfwd, ht.env⟩

end Sys2Proof.Machine

/-! ## The end of a transfer

What 40_encoder's R107 and R110 ask of a run in reception: on a line that holds its level the watchdog's match comes
`WD_T` ticks after the last entry, and the transfer ends there without a reply (R222). A reply that the stop detector
completes before it is published (E9). -/

namespace Sys2Proof.Machine

variable {s s₀ : State} {n acc : Nat} {level : Level} {es : List Stimulus}

/-! ### The watchdog's entry -/

theorem State.Legal.codes (hl : s.Legal) : s.state ≠ 3 ∧ s.hbIdx.toNat ≤ 45 := by
  obtain ⟨-, -, -, -, -, -, h3, -, h45⟩ := hl
  exact ⟨h3, h45⟩

/-- The half-bit match of reception ends the transfer (R107, R154). -/
theorem step_encEnd (hp : s.params.WellFormed) (hl : s.Legal) (hs : s.state = stReceiving) (hhb : s.irHb = true)
    (hfirst : goesFirst s.env = false) :
    step s = .next (s.enterHb.endTransfer.withChained s.enterHb.endTransfer.irq) := by
  obtain ⟨-, h45⟩ := hl.codes
  exact step_of_entry hp (by simp [State.entryNext, State.irq, hhb, hfirst])
    (selectEntry_of_receiving (d := s.dsel) hhb hs h45) (exec_encEnd hl hhb hs)

/-! ### Ticks on a line that holds its level -/

/-- `s` with the counter at `n`. -/
def State.atCount (s : State) (n : Nat) : State := { s with cnt := n }

theorem State.capture_of_held (hline : s.rx = s.prevRx) : s.capture = s := by
  rw [State.capture, if_neg (by simp [hline])]
  exact congrArg (fun v => ({ s with prevRx := v } : State)) hline

/-- Reception with nothing pending, no event left, and the line at the level of the last tick. -/
structure QuietReception (s : State) : Prop where
  params : s.params.WellFormed
  legal : s.Legal
  state : s.state = stReceiving
  quiet : s.irq = false
  env : s.env = []
  line : s.rx = s.prevRx
  cnt_lt : s.cnt < s.params.wdT

namespace QuietReception

theorem atCount (h : QuietReception s) (hn : n < s.params.wdT) : QuietReception (s.atCount n) :=
  ⟨h.params, h.legal, h.state, h.quiet, h.env, h.line, hn⟩

theorem count_eq (h : QuietReception s) : s.count = s.atCount (s.cnt + 1) := by
  obtain ⟨-, -, -, -, -, -, hfit, -⟩ := h.params
  rw [State.count, if_pos (by rw [State.run, h.state]; rfl),
    Nat.mod_eq_of_lt ((Nat.succ_le_of_lt h.cnt_lt).trans_lt hfit)]
  rfl

theorem mrHb_eq (h : QuietReception s) : s.mrHb = s.params.wdT := by rw [State.mrHb, if_pos h.state]

/-- Below both match values a tick only counts (R213 to R216). -/
theorem tick_counts (h : QuietReception s) (hwd : s.cnt + 1 ≠ s.params.wdT)
    (hstop : s.stopEn = true → s.cnt + 1 ≠ s.params.stopT) : s.tick s.rx = s.atCount (s.cnt + 1) := by
  have hhb : (s.atCount (s.cnt + 1)).compareHb = s.atCount (s.cnt + 1) :=
    if_neg fun hmatch => hwd (hmatch.2.trans h.mrHb_eq)
  have hst : (s.atCount (s.cnt + 1)).compareStop = s.atCount (s.cnt + 1) :=
    if_neg fun hmatch => hstop hmatch.1 hmatch.2
  change (s.count.compareHb.compareStop).capture = _
  rw [h.count_eq, hhb, hst, State.capture_of_held (s := s.atCount (s.cnt + 1)) h.line]

/-- The watchdog's match, with the stop match not enabled (R214). -/
theorem tick_watchdog (h : QuietReception s) (hwd : s.cnt + 1 = s.params.wdT) (hstop : s.stopEn = false) :
    s.tick s.rx = (s.atCount (s.cnt + 1)).raiseHb := by
  have hhb : (s.atCount (s.cnt + 1)).compareHb = (s.atCount (s.cnt + 1)).raiseHb := by
    refine if_pos ⟨?_, hwd.trans h.mrHb_eq.symm⟩
    change (s.state != stIdle) = true
    rw [h.state]
    rfl
  have hst : (s.atCount (s.cnt + 1)).raiseHb.compareStop = (s.atCount (s.cnt + 1)).raiseHb :=
    if_neg fun hmatch => Bool.false_ne_true (hstop.symm.trans hmatch.1)
  change (s.count.compareHb.compareStop).capture = _
  rw [h.count_eq, hhb, hst, State.capture_of_held (s := (s.atCount (s.cnt + 1)).raiseHb) h.line]

/-- Ticks that reach neither match value only count. -/
theorem counts (h : QuietReception s) (hwd : s.cnt + n < s.params.wdT)
    (hstop : s.stopEn = true → s.cnt + n < s.params.stopT) : runSteps n s = .next (s.atCount (s.cnt + n)) := by
  induction n with
  | zero => rfl
  | succ n ih =>
    have hn := h.atCount (n := s.cnt + n) (by omega)
    refine runSteps_succ_of_step (ih (by omega) fun hen => (hstop hen).trans' (by omega)) ?_
    rw [step_of_silence hn.params hn.legal hn.quiet hn.env, hn.tick_counts hwd.ne fun hen => (hstop hen).ne]
    rfl

/-- The watchdog's match and its entry. -/
theorem last_tick_ends (h : QuietReception s) (hwd : s.cnt + 1 = s.params.wdT) (hstop : s.stopEn = false) :
    runSteps 2 s = .next (s.enterHb.endTransfer.withChained false) := by
  have hmatch := step_of_silence h.params h.legal h.quiet h.env
  rw [h.tick_watchdog hwd hstop] at hmatch
  have hend := step_encEnd (s := (s.atCount (s.cnt + 1)).raiseHb) h.params (stepKeepsLegal _ _ h.legal hmatch) h.state rfl
    (congrArg goesFirst h.env)
  have hentry : (s.atCount (s.cnt + 1)).raiseHb.enterHb = s.enterHb := rfl
  obtain ⟨-, hst, hcap⟩ := State.irq_eq_false.mp h.quiet
  have hdone : s.enterHb.endTransfer.irq = false := State.irq_eq_false.mpr ⟨rfl, hst, hcap⟩
  rw [hentry, hdone] at hend
  exact runSteps_two hmatch hend

/-- With no frame to complete, the watchdog ends the transfer when `n` ticks have brought the counter to `WD_T` (R107,
R222). -/
theorem ends (h : QuietReception s) (hstop : s.stopEn = false) (hn : s.cnt + n = s.params.wdT) :
    runSteps (n + 1) s = .next (s.enterHb.endTransfer.withChained false) := by
  have hcnt := h.cnt_lt
  obtain ⟨m, rfl⟩ : ∃ m, n = m + 1 := ⟨n - 1, by omega⟩
  have hcounts := h.counts (n := m) (by omega) fun hen => absurd hen (by simp [hstop])
  have hm := h.atCount (n := s.cnt + m) (by omega)
  rw [Nat.add_assoc, runSteps_add hcounts]
  exact hm.last_tick_ends hn hstop

end QuietReception

/-! ### A transfer without a reply -/

/-- The step that takes an accepted START off the trace (R180). -/
theorem step_start {f : BitVec 16} {first : Bool} (hp : s.params.WellFormed) (hl : s.Legal) (hb : s.busy = false)
    (hq : s.irq = false) (henv : s.env = { first := first, event := .call (cmdWord 0x01 f) } :: es) :
    step s = .next (((s.withEnv es).startTransfer f).answerWith (.start true)) := by
  rw [stepServesCaller s _ first es (.start f) hp henv (.inl hq) (by rw [hb]; exact decode_packCmd_start f)]
  exact execStart_eq_next.mpr ⟨hl, hb, rfl⟩

/-- The status word of an idle core after a transfer with no reply and no error (P1). -/
theorem State.statusWord_of_no_reply (hs : s.state = stIdle) (hb : s.busy = false) (hv : s.answerValid = false)
    (herr : s.err = 0) (hpol : s.pol = true) (ha : s.answer = 0) (hi : s.hbIdx = 45) (hd : s.bfDone = false)
    (hprev : s.prev = false) :
    s.statusWord = if s.lastLevel = true then 0x012D0080 else 0x002D0080 := by
  rw [State.statusWord, hs, hb, hv, herr, hpol, ha, hi, hd, hprev]
  cases s.lastLevel <;> rfl

/-- Settles O58: the START, the transmission with no event on the way, and the watchdog. -/
theorem silentTransferHasNoReply : Obligations.SilentTransferHasNoReply := by
  intro s f hp hl hb hq henv
  have hstart := step_start hp hl hb hq henv
  set s₀ := ((s.withEnv []).startTransfer f).answerWith (.start true)
  obtain ⟨t, ht, hheld⟩ := transmits (s := s₀) hp ((s.withEnv []).startTransfer_legal f) rfl rfl rfl rfl rfl
    (m := 45 * s.params.te) (by simp [s₀])
  obtain ⟨hte, hwd⟩ : 0 < s.params.te ∧ 0 < s.params.wdT := by
    obtain ⟨hte, -, -, -, -, hwd, -⟩ := hp
    exact ⟨hte, Nat.zero_lt_of_lt hwd⟩
  have hair : OnAir s₀ (45 * s.params.te) t := by simpa [s₀] using ht.toOnAir
  obtain ⟨hs, hi, hc, htx, hlast⟩ := hair.reception
  obtain ⟨hparams, hfwd, hans, herr, hacc, hdone⟩ := ht.same
  have hprev := hheld (by omega)
  obtain ⟨-, -, -, -, hvalid, -⟩ := (State.legal_iff_of_receiving hs).mp ht.legal
  have hquiet : QuietReception t :=
    ⟨by rw [hparams]; exact hp, ht.legal, hs, ht.quiet, ht.env, hprev.symm, by rw [hc, hparams]; exact hwd⟩
  have hend := hquiet.ends (n := s.params.wdT) (by simp [State.stopEn, hacc]) (by rw [hc, hparams, Nat.zero_add]; rfl)
  have hrx : t.lastLevel = s.rx := (hlast.trans hprev).trans ht.line
  have hreach := ht.reached
  rw [hi] at hreach
  refine ⟨t.enterHb.endTransfer.withChained false, ?_, rfl, rfl, by simp [hdone, hvalid], by simp [hdone, hans, s₀], herr,
    hi, htx, hfwd, rfl, rfl, ?_, ?_⟩
  · have hrun : runSteps (1 + 45 * (s.params.te + 1)) s = .next t := by
      rw [Nat.add_comm, runSteps_of_step hstart, show 45 * (s.params.te + 1) = 0 + 45 * s.params.te + 45 by omega]
      exact hreach
    rw [runSteps_add hrun]
    exact hend
  · obtain ⟨-, hst, hcap⟩ := State.irq_eq_false.mp ht.quiet
    exact State.irq_eq_false.mpr ⟨rfl, hst, hcap⟩
  · rw [← hrx]
    exact State.statusWord_of_no_reply rfl rfl (by simp [hdone, hvalid]) herr htx (by simp [hdone, hans, s₀]) hi rfl rfl

/-! ### A reply completed and published -/

/-- The first `j` bits on the line are the top `j` bits of the frame (R72, R75). -/
theorem bitsValue_top (f : BitVec 16) {j : Nat} (hj : j ≤ 16) :
    bitsValue ((List.range j).map fun k => f.getLsbD (15 - k)) = f.toNat / 2 ^ (16 - j) := by
  induction j with
  | zero => simp [bitsValue, Nat.div_eq_of_lt f.isLt]
  | succ j ih =>
    have hbit : (f.getLsbD (15 - j)).toNat = f.toNat / 2 ^ (15 - j) % 2 := by
      rw [← BitVec.testBit_toNat, Nat.toNat_testBit]
    have hhalf : f.toNat / 2 ^ (16 - j) = f.toNat / 2 ^ (15 - j) / 2 := by
      rw [Nat.div_div_eq_div_mul, ← pow_succ, show 15 - j + 1 = 16 - j by omega]
    have ih' := ih (by omega)
    simp only [bitsValue, List.range_succ, List.map_append, List.foldl_append, List.map_cons, List.map_nil,
      List.foldl_cons, List.foldl_nil] at ih' ⊢
    rw [ih', hbit, hhalf, show 16 - (j + 1) = 15 - j by omega]
    omega

theorem bitsValue_frameBits (f : BitVec 16) : bitsValue (frameBits f) = f.toNat :=
  (bitsValue_top f le_rfl).trans (by simp)

/-- A stop match with a data bit in the frame completes it (R145). -/
theorem step_eofDetect (hp : s.params.WellFormed) (hl : s.Legal) (hf : s.InFrame) (he : s.EvStop) (h2 : 2 ≤ s.bfAcc)
    (hfirst : goesFirst s.env = false) :
    step s = .next (s.enterStop.markDone.withChained s.enterStop.markDone.irq) := by
  obtain ⟨h3, h45⟩ := hl.codes
  have hsel := selectEntry_of_stop (d := s.dsel) h3 h45 he
  rw [if_pos (by simpa [State.dsel, State.accNz, State.InFrame] using hf)] at hsel
  have hst : s.irStop = true := he.2
  refine step_of_entry hp (by simp [State.entryNext, State.irq, hst, hfirst]) hsel ?_
  exact execEofDetect_eq_next.mpr ⟨hl, ⟨he, hf⟩, by rw [if_pos h2]⟩

/-- A stop match delivered to a decoder that waits with a data bit: the frame `acc` is complete. -/
structure Completed (s₀ : State) (acc : Nat) (es : List Stimulus) (s : State) : Prop where
  params : s.params = s₀.params
  err : s.err = s₀.err
  legal : s.Legal
  state : s.state = stReceiving
  bfDone : s.bfDone = true
  bfAcc : s.bfAcc = acc
  env : s.env = es
  quiet : s.irq = false

theorem Waiting.completes (hw : Waiting s₀ acc level (⟨false, .evStop⟩ :: es) s) (hp : s₀.params.WellFormed)
    (h2 : 2 ≤ acc) : ∃ t, runSteps 2 s = .next t ∧ Completed s₀ acc es t := by
  have hps : s.params.WellFormed := by rw [hw.params]; exact hp
  obtain ⟨hhb, -, hcap⟩ := State.irq_eq_false.mp hw.quiet
  have hacc : 2 ≤ s.bfAcc := by rw [hw.bfAcc]; exact h2
  have hne : s.bfAcc ≠ 0 := by omega
  have hfirst : goesFirst es = false := goesFirst_of_ordered fun e he => hw.ordered e (List.mem_cons_of_mem _ he)
  have hstop : step s = .next (s.withEnv es).raiseStop :=
    (step_of_event hps hw.quiet hw.env).trans (guarded_pos hw.legal trivial)
  have hlc := stepKeepsLegal _ _ hw.legal hstop
  have hserve := step_eofDetect (s := (s.withEnv es).raiseStop) hps hlc ⟨hw.state, hne, hw.bfDone⟩ ⟨hhb, rfl⟩ hacc
    hfirst
  refine ⟨_, runSteps_two hstop hserve, ?_⟩
  exact
    { params := by simp [hw.params], err := by simp [hw.err], state := by simp [hw.state], bfDone := by simp
      bfAcc := by simp [hw.bfAcc], env := by simp
      legal := stepKeepsLegal _ _ hlc hserve
      quiet := by simp [State.irq, hhb, hcap] }

/-- The watchdog publishes a completed frame (R107). -/
theorem Completed.publishes (h : Completed s₀ acc [⟨false, .evHb⟩] s) (hp : s₀.params.WellFormed) :
    ∃ u, runSteps 2 s = .next u ∧ u.state = stIdle ∧ u.busy = false ∧ u.answer = BitVec.ofNat 8 acc ∧
      u.answerValid = true ∧ u.err = s₀.err := by
  have hps : s.params.WellFormed := by rw [h.params]; exact hp
  have hmatch : step s = .next (s.withEnv []).raiseHb :=
    (step_of_event hps h.quiet h.env).trans (guarded_pos h.legal trivial)
  have hend := step_encEnd (s := (s.withEnv []).raiseHb) hps (stepKeepsLegal _ _ h.legal hmatch) h.state rfl rfl
  exact ⟨_, runSteps_two hmatch hend, rfl, rfl, by simp [h.bfDone, h.bfAcc], by simp [h.bfDone], h.err⟩

/-- Settles O60: the reply of a frame's bits is decoded to the frame below the start bit's 1, whose low byte ENC_END
publishes. -/
theorem loopbackRecoversFrame : Obligations.LoopbackRecoversFrame := by
  intro s gap f hp hl hs hacc hdone hlast hirq hshort hlong henv
  have hordered : ∀ e ∈ replyEvents s.params.te gap (frameBits f) ++ [⟨false, .evStop⟩, ⟨false, .evHb⟩],
      e.first = false := by
    simpa [or_imp, forall_and] using fun e he => replyEvents_ordered e he
  have hw : Waiting s 0 true (replyEvents s.params.te gap (frameBits f) ++ [⟨false, .evStop⟩, ⟨false, .evHb⟩]) s :=
    { params := rfl, err := rfl, legal := hl, state := hs, bfDone := hdone, bfAcc := hacc, lastLevel := hlast,
      env := henv, ordered := hordered, quiet := hirq }
  have hlen : (frameBits f).length = 16 := by simp [frameBits]
  have hfit : (frameBits f).length < s.params.bfW := by
    obtain ⟨-, -, -, -, -, -, -, hbfW⟩ := hp
    omega
  obtain ⟨t, hrun, ht⟩ := receives_reply hp hshort hlong hw hfit
  rw [hlen, bitsValue_frameBits] at ht
  obtain ⟨d, hcomplete, hd⟩ := ht.completes hp (by omega)
  obtain ⟨u, hpublish, hstate, hbusy, hans, hvalid, herr⟩ := hd.publishes hp
  have hlow : BitVec.ofNat 8 (2 ^ 16 + f.toNat) = f.setWidth 8 := by
    apply BitVec.eq_of_toNat_eq
    simp only [BitVec.toNat_ofNat, BitVec.toNat_setWidth]
    omega
  exact ⟨t, u, hrun, ht.bfAcc, (runSteps_add hcomplete).trans hpublish, hstate, hbusy, hans.trans hlow, hvalid, herr⟩

end Sys2Proof.Machine

/-! ## The Timing Classifier

What 41_classifier asks of CLASSIFY: one class for every interval (R120), and under R7 two open windows with a guard band
between them (R121, R122). -/

namespace Sys2Proof.Machine

variable {p : Params} {n : Nat}

/-! ### The operation -/

/-- An answer is not a register, so giving one writes none. -/
theorem onlyWrites_answerWith (s : State) (r : Result) : OnlyWrites [] s (s.answerWith r) := by
  refine ⟨fun q _ => ?_, rfl, rfl, rfl⟩
  cases q <;> rfl

/-- Settles O49: CLASSIFY is not guarded, so it answers in every state. -/
theorem classifyReturnsClass : Obligations.ClassifyReturnsClass := fun _ s =>
  ⟨_, execClassify_eq_next.mpr rfl, rfl, onlyWrites_answerWith s _⟩

/-! ### The windows -/

/-- The SHORT test is made first, so its window is whole under every parameter set (R122). -/
theorem classify_eq_short_iff : classify p n = .short ↔ p.minTe < n ∧ n < p.maxTe := by
  unfold classify
  split_ifs <;> simp_all

theorem classify_eq_invalid_iff :
    classify p n = .invalid ↔ (n ≤ p.minTe ∨ p.maxTe ≤ n) ∧ (n ≤ p.min2Te ∨ p.max2Te ≤ n) := by
  simp only [← not_lt, ← not_and_or]
  unfold classify
  split_ifs <;> simp_all

/-- Under R7 the SHORT window ends before the LONG one begins and takes nothing from it. -/
theorem classify_eq_long_iff (hp : p.WellFormed) : classify p n = .long ↔ p.min2Te < n ∧ n < p.max2Te := by
  obtain ⟨-, -, hgap, -⟩ := hp
  have hdisjoint : p.min2Te < n → ¬ n < p.maxTe := by omega
  unfold classify
  split_ifs <;> simp_all

/-- Settles O50, by the order of the four bounds: `MIN_TE < MAX_TE ≤ MIN_2TE < MAX_2TE` (R7). -/
theorem classifierWindows : Obligations.ClassifierWindows := by
  intro p hp
  simp only [classify_eq_short_iff, classify_eq_long_iff hp, classify_eq_invalid_iff]
  obtain ⟨-, hshort, hgap, hlong, -⟩ := hp
  and_intros <;> omega

end Sys2Proof.Machine

/-! ## The backward-frame decoder

What 42_decoder asks of one row or entry: `SHIFT` puts its bit at bit 0 of `BF_ACC` and `CLEAR_BF` empties it (R131,
R132), each row of the decode step writes the frame as its row of the table says (R133 to R143), the seed and the
end-of-frame detector do what R144 and R145 say, and `PREV` is the last bit shifted in (R146 (a)). -/

namespace Sys2Proof.Machine

variable {s t u : State} {i : Instr} {prev : Bool} {high low : IntervalClass}

/-! ### The last bit of the accumulator -/

/-- `2^BF_W` is even (R7), so cutting the shifted accumulator to `BF_W` bits leaves its bit 0. -/
theorem State.shiftIn_bfAcc_mod_two (hp : s.params.WellFormed) (x : Bool) : (s.shiftIn x).bfAcc % 2 = x.toNat := by
  obtain ⟨-, -, -, -, -, -, -, hbfW⟩ := hp
  have heven : 2 ∣ 2 ^ s.params.bfW := dvd_pow_self 2 (by omega)
  have hx : x.toNat < 2 := Bool.toNat_lt x
  rw [State.shiftIn_bfAcc, Nat.mod_mod_of_dvd _ heven]
  omega

/-- Two `SHIFT`s, the second of a 1: the cut after the first does not show after the second (R131). -/
theorem State.shiftIn_shiftIn_true_bfAcc (s : State) :
    ((s.shiftIn false).shiftIn true).bfAcc = (4 * s.bfAcc + 1) % 2 ^ s.params.bfW :=
  calc (2 * ((2 * s.bfAcc) % 2 ^ s.params.bfW) + 1) % 2 ^ s.params.bfW
    _ = (2 * (2 * s.bfAcc) + 1) % 2 ^ s.params.bfW := ((Nat.mod_modEq _ _).mul_left 2).add_right 1
    _ = (4 * s.bfAcc + 1) % 2 ^ s.params.bfW := by rw [← Nat.mul_assoc]

namespace State.PrevIsLastBit

theorem of_empty (h : s.bfAcc = 0) : s.PrevIsLastBit := fun hne => absurd h hne

theorem of_bit (h : s.bfAcc % 2 = s.prev.toNat) : s.PrevIsLastBit := fun _ => by rw [h]; cases s.prev <;> rfl

theorem shiftIn (hp : s.params.WellFormed) {x : Bool} (hprev : s.prev = x) : (s.shiftIn x).PrevIsLastBit :=
  of_bit (by rw [State.shiftIn_bfAcc_mod_two hp, State.shiftIn_prev, hprev])

theorem shiftIn_setPrev (hp : s.params.WellFormed) (x : Bool) : ((s.shiftIn x).setPrev x).PrevIsLastBit :=
  of_bit (State.shiftIn_bfAcc_mod_two hp x)

theorem seed (s : State) : s.seed.PrevIsLastBit := of_bit rfl

theorem tick (h : s.PrevIsLastBit) (v : Level) : (s.tick v).PrevIsLastBit := by
  simpa [State.PrevIsLastBit] using h

end State.PrevIsLastBit

/-- A row leaves the frame empty, or its last `SHIFT` is of the bit `PREV` has after it: DEC_0SS and DEC_1SS keep `PREV`
and shift in that bit. So the row needs nothing of the frame before it. -/
theorem RowEffect.prevIsLastBit (h : RowEffect s t) (hp : s.params.WellFormed) : t.PrevIsLastBit := by
  cases h with
  | error => exact .of_empty rfl
  | zero hprev => exact .shiftIn hp hprev
  | one hprev => exact .shiftIn hp hprev
  | oneZero => exact .shiftIn_setPrev hp false
  | zeroOne => exact .shiftIn_setPrev (s := s.shiftIn false) hp true

theorem Effect.keeps_prevIsLastBit (h : Effect s i t) (hp : s.params.WellFormed) (hb : s.PrevIsLastBit) :
    t.PrevIsLastBit := by
  cases h with
  | start | reset | finish | discard | order => exact .of_empty rfl
  | seed => exact .seed s.enterCap.recordLow
  | result | slot | turn | hbIdle | stopIgnore | complete | capIgnore | fall => exact hb
  | decode _ _ _ _ hr => exact hr.prevIsLastBit hp
  | row _ _ _ _ hr => exact hr.prevIsLastBit hp

theorem handle_keeps_prevIsLastBit {e : Event} (h : handle e s = .next t) (hp : s.params.WellFormed)
    (hb : s.PrevIsLastBit) : t.PrevIsLastBit := by
  obtain ⟨-, ⟨v, -, rfl⟩ | ⟨v, -, rfl⟩ | ⟨-, rfl⟩ | ⟨-, rfl⟩ | ⟨v, n, -, rfl⟩⟩ | ⟨cmd, i, -, -, hx⟩ := handle_cases h
  · exact hb.tick v
  · exact hb
  · exact hb
  · exact hb
  · exact hb
  · exact (exec_effect hx).keeps_prevIsLastBit hp hb

/-- Settles O21, by the effect of the operation an entry runs and of the event the environment takes. -/
theorem stepKeepsPrevIsLastBit : Obligations.StepKeepsPrevIsLastBit := by
  intro s t _ hb h
  obtain ⟨hp, ⟨-, i, u, -, hx, rfl⟩ | ⟨-, -, hx⟩ | ⟨-, e, es, -, hx⟩⟩ := step_cases h
  · exact (exec_effect hx).keeps_prevIsLastBit hp hb
  · exact handle_keeps_prevIsLastBit hx hp hb
  · exact handle_keeps_prevIsLastBit (s := s.withEnv es) hx hp hb

/-! ### The frames of the decoder's updates -/

/-- Two updates in a row write no register but those of either. -/
theorem OnlyWrites.trans {ws ws' : List Reg} (h : OnlyWrites ws s t) (h' : OnlyWrites ws' t u) :
    OnlyWrites (ws ++ ws') s u := by
  obtain ⟨hget, hparams, henv, hchained⟩ := h
  obtain ⟨hget', hparams', henv', hchained'⟩ := h'
  refine ⟨fun r hr => ?_, hparams'.trans hparams, henv'.trans henv, hchained'.trans hchained⟩
  obtain ⟨hr, hr'⟩ : r ∉ ws ∧ r ∉ ws' := by simpa using hr
  exact (hget' r hr').trans (hget r hr)

/-- A frame may list more registers, in any order. -/
theorem OnlyWrites.mono {ws ws' : List Reg} (h : OnlyWrites ws s t) (hsub : ws ⊆ ws') : OnlyWrites ws' s t :=
  ⟨fun r hr => h.1 r fun hmem => hr (hsub hmem), h.2⟩

theorem onlyWrites_enterStop (s : State) : OnlyWrites [.cnt, .irStop] s s.enterStop := by
  refine ⟨fun r hr => ?_, rfl, rfl, rfl⟩
  cases r with
  | cnt | irStop => simp at hr
  | _ => rfl

theorem onlyWrites_enterCap (s : State) : OnlyWrites [.cnt, .irCap] s s.enterCap := by
  refine ⟨fun r hr => ?_, rfl, rfl, rfl⟩
  cases r with
  | cnt | irCap => simp at hr
  | _ => rfl

theorem onlyWrites_recordLow (s : State) : OnlyWrites [.tLow, .lastLevel] s s.recordLow := by
  refine ⟨fun r hr => ?_, rfl, rfl, rfl⟩
  cases r with
  | tLow | lastLevel => simp at hr
  | _ => rfl

theorem onlyWrites_markDone (s : State) : OnlyWrites [.bfDone] s s.markDone := by
  refine ⟨fun r hr => ?_, rfl, rfl, rfl⟩
  cases r with
  | bfDone => simp at hr
  | _ => rfl

theorem onlyWrites_recordError (s : State) (c : BitVec 3) :
    OnlyWrites [.bfAcc, .prev, .err] s (s.recordError c) := by
  refine ⟨fun r hr => ?_, rfl, rfl, rfl⟩
  cases r with
  | bfAcc | prev | err => simp at hr
  | _ => rfl

/-- The updates that write both `BF_ACC` and `PREV`, whatever to: `CLEAR_BF`, the seed, and the rows that write `PREV`
after a `SHIFT`. -/
theorem onlyWrites_bfAcc_prev (s : State) (acc : Nat) (v : Bool) :
    OnlyWrites [.bfAcc, .prev] s { s with bfAcc := acc, prev := v } := by
  refine ⟨fun r hr => ?_, rfl, rfl, rfl⟩
  cases r with
  | bfAcc | prev => simp at hr
  | _ => rfl

theorem onlyWrites_shiftIn (s : State) (x : Bool) : OnlyWrites [.bfAcc] s (s.shiftIn x) := by
  refine ⟨fun r hr => ?_, rfl, rfl, rfl⟩
  cases r with
  | bfAcc => simp at hr
  | _ => rfl

/-! ### The ends of a frame: the seed and the end-of-frame detector -/

/-- Settles O42: CAP_SEED is the entry, the record of the low interval and the seed, one after the other. -/
theorem firstRisingEdgeSeeds : Obligations.FirstRisingEdgeSeeds := by
  intro s hl hhb hstop hcap hrx hs hacc hdone hlast
  have hwrites := ((onlyWrites_enterCap s).trans (onlyWrites_recordLow _)).trans (onlyWrites_bfAcc_prev _ 1 true)
  exact ⟨_, execCapSeed_eq_next.mpr ⟨hl, ⟨⟨hhb, hstop, hcap⟩, hrx, hs, hacc, hdone, hlast⟩, rfl⟩, rfl, rfl, rfl, rfl, rfl,
    rfl, rfl, hwrites.mono (by decide)⟩

/-- Settles O40: either branch of R145 leaves no frame in progress, and so disarms the stop match. -/
theorem endOfFrameDetection : Obligations.EndOfFrameDetection := by
  intro s hl hhb hstop hs hacc hdone
  have hx := execEofDetect_eq_next.mpr ⟨hl, ⟨⟨hhb, hstop⟩, hs, hacc, hdone⟩, rfl⟩
  by_cases h2 : 2 ≤ s.bfAcc
  · rw [if_pos h2] at hx
    exact ⟨_, hx, rfl, rfl, by simp [State.stopEn], rfl,
      fun _ => ⟨rfl, (onlyWrites_enterStop s).trans (onlyWrites_markDone _)⟩, fun h1 => by omega⟩
  · rw [if_neg h2] at hx
    exact ⟨_, hx, rfl, rfl, by simp [State.stopEn], rfl, fun h => absurd h h2,
      fun _ => ⟨rfl, rfl, (onlyWrites_enterStop s).trans (onlyWrites_bfAcc_prev _ 0 false)⟩⟩

/-! ### The rows of the decode step -/

/-- A row runs in a legal state with a frame in progress whose key is the row's. -/
theorem decodeRow_of_key (hl : s.Legal) (hf : s.InFrame) (hprev : s.prev = prev) (hhigh : s.highClass = high)
    (hlow : s.lowClass = low) (u : State) : decodeRow s prev high low u = .next u :=
  decodeRow_eq_next.mpr ⟨hl, ⟨hf, hprev, hhigh, hlow⟩, rfl⟩

/-- What a row that records the error `c` writes (R200). -/
theorem exec_errorRow_writes {c : BitVec 3} (hx : exec i s = .next (s.recordError c)) :
    ∃ t, exec i s = .next t ∧ t.bfAcc = 0 ∧ t.prev = false ∧ t.err = c ∧ t.result = s.result ∧
      OnlyWrites [.bfAcc, .prev, .err] s t :=
  ⟨_, hx, rfl, rfl, rfl, rfl, onlyWrites_recordError s c⟩

/-- Settles O45: DEC_BAD_HIGH takes any `T_LOW`, and DEC_BAD_LOW asks that `T_HIGH` be valid (R134, R135). -/
theorem badIntervalsAreErrors : Obligations.BadIntervalsAreErrors := by
  intro s hl hs hacc hdone
  have hf : s.InFrame := ⟨hs, hacc, hdone⟩
  constructor
  · intro hhigh
    exact exec_errorRow_writes (decodeRow_of_key hl hf rfl hhigh rfl _)
  · intro hvalid hlow
    exact exec_errorRow_writes (execDecBadLow_eq_next.mpr ⟨hvalid, decodeRow_of_key hl hf rfl rfl hlow _⟩)

/-- Settles O46: the three ERROR rows of the table. -/
theorem protocolErrorRows : Obligations.ProtocolErrorRows := by
  rintro s hl hs hacc hdone i (⟨rfl, hprev, hhigh, hlow⟩ | ⟨rfl, hprev, hhigh, hlow⟩ | ⟨rfl, hprev, hhigh, hlow⟩) <;>
    exact exec_errorRow_writes (decodeRow_of_key hl ⟨hs, hacc, hdone⟩ hprev hhigh hlow _)

/-- Settles O47: one `SHIFT` each. `PREV` is that bit already in DEC_0SS and DEC_1SS, and DEC_1SL writes it. -/
theorem oneBitRows : Obligations.OneBitRows := by
  intro s hl hs hacc hdone
  have hf : s.InFrame := ⟨hs, hacc, hdone⟩
  refine ⟨fun hprev hhigh hlow => ?_, fun hprev hhigh hlow => ?_, fun hprev hhigh hlow => ?_⟩
  · exact ⟨_, decodeRow_of_key hl hf hprev hhigh hlow _, rfl, hprev, rfl, onlyWrites_shiftIn s _⟩
  · exact ⟨_, decodeRow_of_key hl hf hprev hhigh hlow _, rfl, hprev, rfl, onlyWrites_shiftIn s _⟩
  · exact ⟨_, decodeRow_of_key hl hf hprev hhigh hlow _, rfl, rfl, rfl, onlyWrites_bfAcc_prev s _ _⟩

/-- Settles O48: both rows write the same state. -/
theorem twoBitRows : Obligations.TwoBitRows := by
  intro s hl hs hacc hdone i hrow
  have hx : exec i s = .next (((s.shiftIn false).shiftIn true).setPrev true) := by
    obtain ⟨rfl, hprev, hhigh, hlow⟩ | ⟨rfl, hprev, hhigh, hlow⟩ := hrow <;>
      exact decodeRow_of_key hl ⟨hs, hacc, hdone⟩ hprev hhigh hlow _
  exact ⟨_, hx, s.shiftIn_shiftIn_true_bfAcc, rfl, rfl, onlyWrites_bfAcc_prev s _ _⟩

end Sys2Proof.Machine

/-! ## The dispatcher

What 43_dispatcher asks of a step and of one entry: a due entry runs the operation that the event word selects (R150,
R163), and CAP_DECODE the row that its key selects (R130, R161); each entry writes what its rule lists (R155 to R161);
STATE moves along R162 alone, and no step makes a chain without a flag. -/

namespace Sys2Proof.Machine

variable {s t : State} {i : Instr}

/-! ### The chain and the parameters -/

/-- No operation writes the parameters (R234). -/
theorem Effect.params (h : Effect s i t) : t.params = s.params := by
  cases h with
  | start | result | reset | slot | turn | finish | hbIdle | stopIgnore | complete | discard | capIgnore | fall | seed
  | order => rfl
  | decode _ _ _ _ hr => exact hr.frame.1
  | row _ _ _ _ hr => exact hr.frame.1

/-- An event writes no parameters, and with nothing chained it begins no chain. -/
theorem handle_keeps_unchained {e : Event} (h : handle e s = .next t) (hch : s.chained = false) :
    t.chained = false ∧ t.params = s.params := by
  obtain hkeep | ⟨x, -, -, rfl⟩ | ⟨x, -, rfl⟩ := handle_transferState h
  · have hchained : t.chained = s.chained := (congrArg State.chained hkeep :)
    exact ⟨hchained.trans hch, (congrArg State.params hkeep :)⟩
  · exact ⟨hch, rfl⟩
  · exact ⟨rfl, rfl⟩

namespace State.ChainHasFlag

theorem of_unchained (h : s.chained = false) : s.ChainHasFlag := fun hch => by simp [h] at hch

/-- A chained entry that has its flag is due, so an event's turn comes only when nothing is chained (R163). -/
theorem chained_eq_false (hflag : s.ChainHasFlag) (hno : s.entryNext = false) : s.chained = false := by
  by_contra h
  have hch : s.chained = true := by simpa using h
  simp [State.entryNext, hch, hflag hch] at hno

end State.ChainHasFlag

/-- Settles O24: an entry records the chain as the flags it leaves, and an event finds no chain and begins none. -/
theorem stepKeepsChainAndParameters : Obligations.StepKeepsChainAndParameters := by
  intro s t hflag h
  obtain ⟨-, ⟨-, i, u, -, hx, rfl⟩ | ⟨hno, -, hx⟩ | ⟨hno, e, es, -, hx⟩⟩ := step_cases h
  · exact ⟨id, (exec_effect hx).params⟩
  · exact (handle_keeps_unchained hx (hflag.chained_eq_false hno)).imp_left .of_unchained
  · exact (handle_keeps_unchained (s := s.withEnv es) hx (hflag.chained_eq_false hno)).imp_left .of_unchained

/-! ### What moves STATE -/

/-- Of the entries, only ENC_TURN and ENC_END write STATE (R106, R107). -/
theorem Effect.entry_state (h : Effect s i t) (hi : isEntry i = true) :
    t.state = s.state ∨ s.state = stSending ∧ s.irHb = true ∧ s.hbIdx = 44 ∧ t = s.enterHb.turnAround ∨
      s.state = stReceiving ∧ s.irHb = true ∧ t = s.enterHb.endTransfer := by
  cases h with
  | start | reset => simp [isEntry] at hi
  | turn _ he hs hi44 => exact .inr (.inl ⟨hs, he, hi44, rfl⟩)
  | finish _ he hs => exact .inr (.inr ⟨hs, he, rfl⟩)
  | result | slot | hbIdle | stopIgnore | complete | discard | capIgnore | fall | seed | order => exact .inl rfl
  | decode _ _ _ _ hr =>
    obtain ⟨-, hstate, -⟩ := hr.frame
    exact .inl hstate
  | row _ _ _ _ hr =>
    obtain ⟨-, hstate, -⟩ := hr.frame
    exact .inl hstate

theorem State.Legal.idle_of_not_busy (hl : s.Legal) (hb : s.busy = false) : s.state = stIdle := by
  obtain ⟨hbusy, -⟩ := hl
  by_contra hne
  simp [hbusy.mpr hne] at hb

/-- Settles O25: of the entries ENC_TURN and ENC_END write STATE, and of the events an accepted START and a RESET. -/
theorem stateTransitions : Obligations.StateTransitions := by
  intro s t hl h hne
  obtain ⟨-, ⟨-, i, u, hi, hx, rfl⟩ | ⟨-, -, hx⟩ | ⟨-, e, es, henv, hx⟩⟩ := step_cases h
  · obtain hkeep | ⟨hs, hhb, hi44, rfl⟩ | ⟨hs, hhb, rfl⟩ := (exec_effect hx).entry_state (isEntry_of_selectEntry hi)
    · exact absurd hkeep hne
    · obtain ⟨-, -, hacc, -⟩ := (State.legal_iff_of_sending hs).mp hl
      exact .inr (.inl ⟨hs, rfl, hhb, hi44, by simp [hi44], hacc⟩)
    · exact .inr (.inr (.inl ⟨hs, rfl, hhb⟩))
  · obtain ⟨-, -, rfl⟩ := guarded_next_eq_next.mp hx
    exact absurd (s.tick_state s.rx) hne
  · obtain hkeep | ⟨x, hcall, hb, rfl⟩ | ⟨x, hcall, rfl⟩ := handle_transferState (s := s.withEnv es) hx
    · exact absurd (congrArg State.state hkeep) hne
    · exact .inl ⟨hl.idle_of_not_busy hb, rfl, e, es, x, henv, hcall, rfl, rfl, rfl⟩
    · exact .inr (.inr (.inr ⟨rfl, e, es, x, henv, hcall, rfl⟩))

/-! ### A due entry -/

/-- An entry is due when a flag is pending, and the entry is chained or no event goes first (R150, R163, R238). -/
theorem State.entryNext_of_due (hirq : s.irq = true)
    (hdue : s.chained = true ∨ ∀ e es, s.env = e :: es → e.first = false) : s.entryNext = true := by
  obtain hchained | hfirst := hdue
  · simp [State.entryNext, hirq, hchained]
  · have hgo : goesFirst s.env = false := by
      cases henv : s.env with
      | nil => rfl
      | cons e es => exact hfirst e es henv
    simp [State.entryNext, hirq, hgo]

/-- Settles O7: the due entry is served, and the event word selects its operation. -/
theorem stepServesInterrupt : Obligations.StepServesInterrupt := by
  intro s i hp hirq hdue hi
  rw [step_of_entryNext hp (State.entryNext_of_due hirq hdue), serveInterrupt, runSelected_of_decode hi]
  rfl

/-! ### CAP_DECODE and its row -/

/-- CAP_DECODE is the row of the key with the captured low interval, on the entry's own writes (R130, R161). -/
theorem exec_capDecode (hl : s.Legal) (he : s.EvCap) (hrx : s.rx = true) (hf : s.InFrame)
    (hlast : s.lastLevel = false) :
    exec .capDecode s =
      exec (selectRow s.prev (classify s.params s.tHigh) (classify s.params s.capVal)) s.enterCap.recordLow :=
  (guarded_pos hl ⟨he, hrx, hf, hlast⟩).trans (decodeStep_eq_exec _)

/-- Settles O9: the capture selects CAP_DECODE, and CAP_DECODE is the row of the key. CLASSIFY is not guarded. -/
theorem stepServesFunctions : Obligations.StepServesFunctions := by
  intro s i hp hl hdue hhb hstop hcap hrx hs hacc hdone hlast hi
  have he : s.EvCap := ⟨hhb, hstop, hcap⟩
  obtain ⟨h3, h45⟩ := hl.codes
  have hentry : captureEntry s.dsel = .capDecode := by
    simp [captureEntry, State.dsel, State.accNz, hs, hdone, hlast, hrx, hacc]
  have hsel : decode (.dsel15 s.dselWord) = .ok .capDecode := by
    rw [decode_dselWord, selectEntry_of_capture (d := s.dsel) h3 h45 he, hentry]
  have hrow : selectRow s.prev (classify s.params s.tHigh) (classify s.params s.capVal) = i := by
    simpa using hi
  refine ⟨?_, fun k _ => ⟨rfl, _, execClassify_eq_next.mpr rfl, rfl⟩⟩
  rw [stepServesInterrupt s .capDecode hp (by simp [State.irq, hcap]) hdue hsel,
    exec_capDecode hl he hrx ⟨hs, hacc, hdone⟩ hlast, hrow]
  rfl

/-- With a frame in progress every key has its row (R130). -/
theorem decodeStep_answers (hl : s.Legal) (hf : s.InFrame) : ∃ t, decodeStep s = .next t := by
  rw [decodeStep_eq_exec]
  cases hhigh : s.highClass with
  | invalid => exact ⟨_, decodeRow_of_key hl hf rfl hhigh rfl _⟩
  | short | long =>
    cases hlow : s.lowClass with
    | invalid => exact ⟨_, execDecBadLow_eq_next.mpr ⟨by decide, decodeRow_of_key hl hf rfl hhigh hlow _⟩⟩
    | short | long => cases hprev : s.prev <;> exact ⟨_, decodeRow_of_key hl hf hprev hhigh hlow _⟩

theorem RowEffect.onlyWrites (h : RowEffect s t) : OnlyWrites [.bfAcc, .prev, .err] s t := by
  cases h with
  | error c => exact onlyWrites_recordError s c
  | zero | one => exact (onlyWrites_shiftIn s _).mono (by decide)
  | oneZero | zeroOne => exact (onlyWrites_bfAcc_prev s _ _).mono (by decide)

/-- The rows keep what the entry around them wrote, and return nothing. -/
theorem RowEffect.keeps_entryWrites (h : RowEffect s t) :
    t.tLow = s.tLow ∧ t.lastLevel = s.lastLevel ∧ t.cnt = s.cnt ∧ t.irCap = s.irCap ∧ t.result = s.result := by
  cases h <;> exact ⟨rfl, rfl, rfl, rfl, rfl⟩

/-- Settles O43: the decode step answers, by one of its rows, on the entry's own writes. -/
theorem risingEdgeDecodes : Obligations.RisingEdgeDecodes := by
  intro s hl hhb hstop hcap hrx hs hacc hdone hlast
  have hf : s.InFrame := ⟨hs, hacc, hdone⟩
  obtain ⟨t, hx⟩ := decodeStep_answers (s := s.enterCap.recordLow) hl hf
  obtain ⟨-, -, hrow⟩ := decodeStep_rowEffect hx
  obtain ⟨hlow, hlevel, hcnt, hflag, hresult⟩ := hrow.keeps_entryWrites
  have hentry := execCapDecode_eq_next.mpr ⟨hl, ⟨⟨hhb, hstop, hcap⟩, hrx, hf, hlast⟩, hx⟩
  have hwrites := ((onlyWrites_enterCap s).trans (onlyWrites_recordLow _)).trans hrow.onlyWrites
  exact ⟨t, hentry, (decodeStep_eq_exec _).symm.trans hx, hlow, hlevel, hcnt, hflag, hresult,
    hwrites.mono (by decide)⟩

/-! ### The other entries -/

theorem onlyWrites_enterHb (s : State) : OnlyWrites [.cnt, .irHb] s s.enterHb := by
  refine ⟨fun r hr => ?_, rfl, rfl, rfl⟩
  cases r with
  | cnt | irHb => simp at hr
  | _ => rfl

theorem onlyWrites_recordHigh (s : State) : OnlyWrites [.tHigh, .lastLevel] s s.recordHigh := by
  refine ⟨fun r hr => ?_, rfl, rfl, rfl⟩
  cases r with
  | tHigh | lastLevel => simp at hr
  | _ => rfl

theorem onlyWrites_sampleLevel (s : State) : OnlyWrites [.lastLevel] s s.sampleLevel := by
  refine ⟨fun r hr => ?_, rfl, rfl, rfl⟩
  cases r with
  | lastLevel => simp at hr
  | _ => rfl

/-- Settles O39: each of the three is its source's entry writes and nothing more. -/
theorem idleEventsOnlyClearTheirFlag : Obligations.IdleEventsOnlyClearTheirFlag := by
  intro s hl
  refine ⟨fun hhb hs => ?_, fun hhb hstop hno => ?_, fun hhb hstop hcap hno => ?_⟩
  · exact ⟨_, execHbIdle_eq_next.mpr ⟨hl, ⟨hhb, hs⟩, rfl⟩, rfl, rfl, rfl, onlyWrites_enterHb s⟩
  · exact ⟨_, execStopIgnore_eq_next.mpr ⟨hl, ⟨⟨hhb, hstop⟩, hno⟩, rfl⟩, rfl, rfl, rfl, onlyWrites_enterStop s⟩
  · exact ⟨_, execCapIgnore_eq_next.mpr ⟨hl, ⟨⟨hhb, hstop, hcap⟩, hno⟩, rfl⟩, rfl, rfl, rfl, onlyWrites_enterCap s⟩

/-- Settles O41: CAP_FALL is the entry and the record of the high interval, one after the other. -/
theorem fallingEdgeRecordsHigh : Obligations.FallingEdgeRecordsHigh := by
  intro s hl hhb hstop hcap hrx hs hdone hlast
  have hwrites := (onlyWrites_enterCap s).trans (onlyWrites_recordHigh _)
  exact ⟨_, execCapFall_eq_next.mpr ⟨hl, ⟨⟨hhb, hstop, hcap⟩, hrx, hs, hdone, hlast⟩, rfl⟩, rfl, rfl, rfl, rfl, rfl,
    hwrites.mono (by decide)⟩

/-- Settles O44: CAP_ORDER is the entry, the error and the sample of the level, one after the other. -/
theorem alternationViolationIsAnError : Obligations.AlternationViolationIsAnError := by
  intro s hl hhb hstop hcap hs hdone hlevel
  have hwrites := ((onlyWrites_enterCap s).trans (onlyWrites_recordError _ errOrder)).trans (onlyWrites_sampleLevel _)
  exact ⟨_, execCapOrder_eq_next.mpr ⟨hl, ⟨⟨hhb, hstop, hcap⟩, hs, hdone, hlevel⟩, rfl⟩, rfl, rfl, rfl, rfl, rfl, rfl,
    rfl, hwrites.mono (by decide)⟩

end Sys2Proof.Machine

/-! ## The caller

What 44_caller asks of its three operations: an accepted START begins a transfer (R180), a START of a busy core and a
READ_STATUS only answer (R181, R182), and every other op code but RESET's is refused (R185). -/

namespace Sys2Proof.Machine

variable {s : State} {e : Stimulus} {es : List Stimulus} {b : Bool} {op : BitVec 8} {x : BitVec 16}

/-! ### A reserved op code -/

theorem decode_packCmd_of_reserved (h1 : op ≠ 0x01) (h2 : op ≠ 0x02) (h3 : op ≠ 0x03) :
    decode (.cmd25 (packCmd b (cmdWord op x))) = .error (.reservedOp op) := by
  rw [decode, decodeCmd, cmdOp_packCmd, if_neg h1, if_neg h2, if_neg h3]

/-- It is the environment's turn when no flag is pending, or when its event goes first and no entry is chained (R150,
R163, R238). -/
theorem State.entryNext_of_eventTurn (henv : s.env = e :: es)
    (hturn : s.irq = false ∨ (s.chained = false ∧ e.first = true)) : s.entryNext = false := by
  obtain hquiet | ⟨hchained, hfirst⟩ := hturn
  · exact entryNext_of_quiet hquiet
  · simp [State.entryNext, hchained, henv, goesFirst, hfirst]

/-- Settles O10: the decoder rejects the word, and the refusal reads no register. -/
theorem reservedOpIsRefused : Obligations.ReservedOpIsRefused := by
  intro s cmd first es hp henv hturn h1 h2 h3
  rw [step_of_not_entryNext hp (State.entryNext_of_eventTurn henv hturn), serveEnvironment_cons henv,
    cmdWord_fields cmd, handle, runSelected, decode_packCmd_of_reserved h1 h2 h3]
  rfl

/-! ### START and READ_STATUS -/

/-- START writes neither `LAST_LEVEL` nor `CAP_VAL`, and no register of the line (R180). -/
theorem onlyWrites_startTransfer (s : State) (f : BitVec 16) :
    OnlyWrites [.fwd, .hbIdx, .bfAcc, .bfDone, .prev, .tHigh, .tLow, .answer, .answerValid, .err, .irHb, .irStop,
      .irCap, .cnt, .pol, .state, .busy] s (s.startTransfer f) := by
  refine ⟨fun r hr => ?_, rfl, rfl, rfl⟩
  cases r with
  | lastLevel | repeatFlag | capVal | rx | prevRx => rfl
  | _ => simp at hr

/-- The timer's configuration in SENDING: the half-bit match armed at `TE`, and capture disabled (R37). -/
theorem State.timer_of_sending (hs : s.state = stSending) :
    s.run = true ∧ s.hbEn = true ∧ s.mrHb = s.params.te ∧ s.capEn = false := by
  simp [State.run, State.hbEn, State.mrHb, State.capEn, hs]

/-- Settles O30: START enters SENDING, whose timer configuration is R37's, and its answer is no register. -/
theorem startBeginsTransfer : Obligations.StartBeginsTransfer := by
  intro f s hl hb
  have hwrites := (onlyWrites_startTransfer s f).trans (onlyWrites_answerWith _ (.start true))
  obtain ⟨hrun, hen, hmatch, hcap⟩ :=
    State.timer_of_sending (s := (s.startTransfer f).answerWith (.start true)) rfl
  exact ⟨_, execStart_eq_next.mpr ⟨hl, hb, rfl⟩, rfl, rfl, rfl, rfl, rfl, rfl, rfl, rfl, rfl, rfl, rfl, rfl, rfl, rfl,
    rfl, rfl, rfl, rfl, hrun, hen, hmatch, hcap, hwrites⟩

/-- Settles O31: the rejected START is an answer and nothing else. -/
theorem startWhileBusyIsRejected : Obligations.StartWhileBusyIsRejected := fun f s hl hb =>
  ⟨_, (execStartRej_eq_next (f := f)).mpr ⟨hl, hb, rfl⟩, rfl, onlyWrites_answerWith s _⟩

/-- Settles O32: READ_STATUS asks no more than a legal state, and its answer is the concatenation by definition. -/
theorem readStatusReturnsWord : Obligations.ReadStatusReturnsWord := fun x s hl =>
  ⟨_, (execReadStatus_eq_next (x := x)).mpr ⟨hl, rfl⟩, rfl, onlyWrites_answerWith s _⟩

end Sys2Proof.Machine

/-! ## Exceptions: the counter, the ticks and the two matches

What 60_exceptions asks of the timer and the line: the counter never passes its armed match value unseen (R213, R214), a
tick does its steps in one order (R217), no error and no entry stops the machine (R200, R211), and a line that goes quiet
ends the transfer by the two matches (R222). -/

namespace Sys2Proof.Machine

variable {s t : State} {n m : Nat} {v : Level} {es : List Stimulus} {i : Instr}

/-! ### The counter below its armed match value -/

/-- Both periods of the half-bit match are at least one tick (R7, R37). -/
theorem State.mrHb_pos (hp : s.params.WellFormed) : 0 < s.mrHb := by
  obtain ⟨hte, -, -, -, -, hwd, -⟩ := hp
  unfold State.mrHb
  split <;> omega

theorem State.run_of_ne_idle (hs : s.state ≠ stIdle) : s.run = true := by simpa [State.run] using hs

@[simp] theorem State.tick_mrHb (s : State) (v : Level) : (s.tick v).mrHb = s.mrHb := by simp [State.mrHb]

namespace State.CounterInBound

theorem of_idle (hs : s.state = stIdle) : s.CounterInBound := fun hne => absurd hs hne

theorem of_cnt_zero (hp : s.params.WellFormed) (hc : s.cnt = 0) : s.CounterInBound :=
  fun _ => .inl (by rw [hc]; exact State.mrHb_pos hp)

/-- A tick adds at most 1, so a counter below the match value passes it or meets it, and meeting it is the match. -/
theorem tick (hb : s.CounterInBound) (v : Level) : (s.tick v).CounterInBound := by
  intro hne
  rw [State.tick_state] at hne
  rw [State.tick_mrHb]
  obtain hlt | hhb := hb hne
  · have hle : (s.tick v).cnt ≤ s.cnt + 1 := by
      rw [State.tick_cnt, if_pos (State.run_of_ne_idle hne)]
      exact Nat.mod_le _ _
    by_cases hmatch : (s.tick v).cnt = s.mrHb
    · have hen : s.hbEn = true := State.run_of_ne_idle hne
      exact .inr (by simp [State.tick_irHb, hen, hmatch])
    · exact .inl (by omega)
  · exact .inr (by simp [State.tick_irHb, hhb])

end State.CounterInBound

/-- The rows of the decode step write the backward frame and `ERR` alone. -/
theorem RowEffect.keeps_counterInBound (h : RowEffect s t) (hb : s.CounterInBound) : t.CounterInBound := by
  cases h <;> exact hb

/-- Every entry leaves the counter at 0 (R151), and so does START. -/
theorem Effect.keeps_counterInBound (h : Effect s i t) (hp : s.params.WellFormed) (hb : s.CounterInBound) :
    t.CounterInBound := by
  cases h with
  | result => exact hb
  | reset | finish => exact .of_idle rfl
  | start | slot | turn | hbIdle | stopIgnore | complete | discard | capIgnore | fall | seed | order =>
    exact .of_cnt_zero hp rfl
  | decode _ _ _ _ hr =>
    have hentry : s.enterCap.recordLow.CounterInBound := .of_cnt_zero hp rfl
    exact hr.keeps_counterInBound hentry
  | row _ _ _ _ hr => exact hr.keeps_counterInBound hb

theorem handle_keeps_counterInBound {ev : Event} (h : handle ev s = .next t) (hp : s.params.WellFormed)
    (hb : s.CounterInBound) : t.CounterInBound := by
  obtain ⟨-, ⟨v, -, rfl⟩ | ⟨v, -, rfl⟩ | ⟨-, rfl⟩ | ⟨-, rfl⟩ | ⟨v, n, -, rfl⟩⟩ | ⟨cmd, i, -, -, hx⟩ := handle_cases h
  · exact hb.tick v
  · exact hb
  · exact fun _ => .inr rfl
  · exact hb
  · exact hb
  · exact (exec_effect hx).keeps_counterInBound hp hb

/-- Settles O23, by the effect of the operation an entry runs and of the event the environment takes. -/
theorem stepKeepsCounterInBound : Obligations.StepKeepsCounterInBound := by
  intro s t _ hb h
  obtain ⟨hp, ⟨-, i, u, -, hx, rfl⟩ | ⟨-, -, hx⟩ | ⟨-, e, es, -, hx⟩⟩ := step_cases h
  · exact (exec_effect hx).keeps_counterInBound hp hb
  · exact handle_keeps_counterInBound hx hp hb
  · exact handle_keeps_counterInBound (s := s.withEnv es) hx hp hb

/-! ### One tick, flag by flag -/

/-- A tick whose turn it is. -/
theorem step_of_tick {first : Bool} (hp : s.params.WellFormed) (hl : s.Legal) (hno : s.entryNext = false)
    (henv : s.env = { first := first, event := .tick v } :: es) : step s = .next ((s.withEnv es).tick v) := by
  rw [step_of_not_entryNext hp hno, serveEnvironment_cons henv]
  exact handle_tick (s := s.withEnv es) hl v

/-- The counter counts outside IDLE (R37, R213). -/
theorem State.tick_cnt_eq (s : State) (v : Level) :
    (s.tick v).cnt = if s.state = stIdle then s.cnt else (s.cnt + 1) % 2 ^ s.params.timerW := by
  simp [State.tick_cnt, State.run, ite_not]

/-- The half-bit match is enabled at `TE` in SENDING and at `WD_T` in RECEIVING (R37, R214). -/
theorem State.tick_irHb_iff (hl : s.Legal) (hhb : s.irHb = false) (v : Level) :
    (s.tick v).irHb = true ↔
      (s.state = stSending ∧ (s.tick v).cnt = s.params.te) ∨
        (s.state = stReceiving ∧ (s.tick v).cnt = s.params.wdT) := by
  obtain ⟨h3, -⟩ := hl.codes
  rw [State.tick_irHb, hhb]
  obtain hs | hs | hs := state_cases h3 <;> simp [State.hbEn, State.mrHb, hs]

/-- The stop match is enabled while a frame is in progress (R37, R215). -/
theorem State.tick_irStop_iff (hst : s.irStop = false) (v : Level) :
    (s.tick v).irStop = true ↔
      s.state = stReceiving ∧ s.bfAcc ≠ 0 ∧ s.bfDone = false ∧ (s.tick v).cnt = s.params.stopT := by
  simp [State.tick_irStop, hst, State.stopEn, State.mrStop, and_assoc]

/-- Capture is enabled outside SENDING (R37, R216). -/
theorem State.tick_irCap_iff (hcap : s.irCap = false) (v : Level) :
    (s.tick v).irCap = true ↔ v ≠ s.prevRx ∧ s.state ≠ stSending := by
  simp [State.tick_irCap, hcap, State.capEn]

/-- `CAP_VAL` is the new count exactly when the tick captures (R216). -/
theorem State.tick_capVal_eq (hcap : s.irCap = false) (v : Level) :
    (s.tick v).capVal = if (s.tick v).irCap = true then (s.tick v).cnt else s.capVal := by
  simp [State.tick_capVal, State.tick_irCap, hcap]

/-- A tick writes the registers of the line and the timer alone. -/
theorem State.get_tick {r : Reg} (hr : r ∉ inputRegs) (v : Level) : (s.tick v).get r = s.get r := by
  rw [← State.get_transferState hr, State.tick_transferState, State.get_transferState hr]

/-- Settles O13: the tick of the state with the event taken off its trace, flag by flag. -/
theorem tickOrder : Obligations.TickOrder := by
  intro s v es hp hl hq henv
  obtain ⟨hhb, hst, hcap⟩ := State.irq_eq_false.mp hq
  have hstep := step_of_tick hp hl (entryNext_of_quiet hq) henv
  set u := s.withEnv es
  exact ⟨u.tick v, hstep, u.tick_rx v, u.tick_prevRx v, u.tick_cnt_eq v, State.tick_irHb_iff (s := u) hl hhb v,
    State.tick_irStop_iff (s := u) hst v, State.tick_irCap_iff (s := u) hcap v, State.tick_capVal_eq (s := u) hcap v,
    u.tick_env v, u.tick_params v, fun r hr => State.get_tick (s := u) hr v, u.tick_result v, u.tick_chained v⟩

/-- Settles O14: the tick goes first, and its capture does not ask whether one is pending. -/
theorem captureOverrunOverwrites : Obligations.CaptureOverrunOverwrites := by
  intro s v es hp hl hch hcap hs hedge henv
  have hstep := step_of_tick hp hl (State.entryNext_of_eventTurn henv (.inr ⟨hch, rfl⟩)) henv
  set u := s.withEnv es
  have hen : u.capEn = true := by simpa [State.capEn, u] using hs
  have hpend : (u.tick v).irCap = true := by simp [State.tick_irCap, u, hcap]
  have hval : (u.tick v).capVal = (u.tick v).cnt := by rw [State.tick_capVal, if_pos ⟨hedge, hen⟩]
  refine ⟨u.tick v, hstep, hpend, hval, u.tick_cnt_eq v, u.tick_rx v, u.tick_prevRx v, u.tick_env v, u.tick_params v,
    u.tick_result v, u.tick_chained v, fun r hr => ?_⟩
  by_cases hflag : r = .irCap
  · subst hflag
    exact congrArg Bool.toNat (hpend.trans hcap.symm)
  · exact State.get_tick (s := u) (by simpa [hflag] using hr) v

/-! ### Every step of a legal state completes -/

/-- A half-bit match selects an entry that runs, in each of the three states (R153 to R155). -/
theorem entry_answers_of_hb (he : s.EvHb) (hl : s.Legal) :
    ∃ i t, selectEntry s.dsel = .ok i ∧ exec i s = .next t := by
  obtain ⟨h3, h45⟩ := hl.codes
  obtain hs | hs | hs := state_cases h3
  · exact ⟨_, _, selectEntry_of_idle (d := s.dsel) he hs h45, execHbIdle_eq_next.mpr ⟨hl, ⟨he, hs⟩, rfl⟩⟩
  · obtain ⟨-, hi44, -⟩ := (State.legal_iff_of_sending hs).mp hl
    have hsel : selectEntry s.dsel = .ok (slotEntry s.hbIdx) := selectEntry_of_slot (d := s.dsel) he hs hi44
    by_cases hi : s.hbIdx.toNat ≤ 43
    · exact ⟨_, _, hsel, exec_slotEntry hl he hs hi⟩
    · have hi' : s.hbIdx = 44 := BitVec.eq_of_toNat_eq (by simp; omega)
      rw [hi'] at hsel
      exact ⟨_, _, hsel, exec_encTurn hl he hs hi'⟩
  · exact ⟨_, _, selectEntry_of_receiving (d := s.dsel) he hs h45, exec_encEnd hl he hs⟩

/-- A stop match is EOF_DETECT with a frame in progress, and STOP_IGNORE without (R156). -/
theorem entry_answers_of_stop (he : s.EvStop) (hl : s.Legal) :
    ∃ i t, selectEntry s.dsel = .ok i ∧ exec i s = .next t := by
  obtain ⟨h3, h45⟩ := hl.codes
  have hsel := selectEntry_of_stop (d := s.dsel) h3 h45 he
  have hframe : (s.dsel.state = stReceiving ∧ s.dsel.accNz = true ∧ s.dsel.bfDone = false) ↔ s.InFrame := by
    simp [State.dsel, State.accNz]
  by_cases hf : s.InFrame
  · rw [if_pos (hframe.mpr hf)] at hsel
    exact ⟨_, _, hsel, execEofDetect_eq_next.mpr ⟨hl, ⟨he, hf⟩, rfl⟩⟩
  · rw [if_neg (mt hframe.mp hf)] at hsel
    exact ⟨_, _, hsel, execStopIgnore_eq_next.mpr ⟨hl, ⟨he, hf⟩, rfl⟩⟩

/-- Each capture entry runs where the order of R157 to R161 selects it. -/
theorem exec_captureEntry_answers (hl : s.Legal) (he : s.EvCap) : ∃ t, exec (captureEntry s.dsel) s = .next t := by
  unfold captureEntry
  split_ifs with hign hlevel hfall hacc
  · exact ⟨_, execCapIgnore_eq_next.mpr ⟨hl, ⟨he, hign⟩, rfl⟩⟩
  all_goals
    obtain ⟨hs, hd⟩ : s.state = stReceiving ∧ s.bfDone = false := by simpa [State.dsel] using hign
  · exact ⟨_, execCapOrder_eq_next.mpr ⟨hl, ⟨he, hs, hd, hlevel⟩, rfl⟩⟩
  · have hrx : s.rx = false := hfall
    have hlast : s.lastLevel = true := by simpa [State.dsel, hrx] using hlevel
    exact ⟨_, execCapFall_eq_next.mpr ⟨hl, ⟨he, hrx, hs, hd, hlast⟩, rfl⟩⟩
  all_goals
    have hrx : s.rx = true := by simpa [State.dsel] using hfall
    have hlast : s.lastLevel = false := by simpa [State.dsel, hrx] using hlevel
  · have hempty : s.bfAcc = 0 := by simpa [State.dsel, State.accNz] using hacc
    exact ⟨_, execCapSeed_eq_next.mpr ⟨hl, ⟨he, hrx, hs, hempty, hd, hlast⟩, rfl⟩⟩
  · have hf : s.InFrame := ⟨hs, by simpa [State.dsel, State.accNz] using hacc, hd⟩
    obtain ⟨t, hx⟩ := decodeStep_answers (s := s.enterCap.recordLow) hl hf
    exact ⟨t, execCapDecode_eq_next.mpr ⟨hl, ⟨he, hrx, hf, hlast⟩, hx⟩⟩

/-- Whatever is pending selects an entry that runs, by its source (R152). -/
theorem entry_answers (hl : s.Legal) (hirq : s.irq = true) :
    ∃ i t, selectEntry s.dsel = .ok i ∧ exec i s = .next t := by
  cases hhb : s.irHb with
  | true => exact entry_answers_of_hb hhb hl
  | false =>
    cases hst : s.irStop with
    | true => exact entry_answers_of_stop ⟨hhb, hst⟩ hl
    | false =>
      have he : s.EvCap := ⟨hhb, hst, by simpa [State.irq, hhb, hst] using hirq⟩
      obtain ⟨h3, h45⟩ := hl.codes
      obtain ⟨t, hx⟩ := exec_captureEntry_answers hl he
      exact ⟨_, t, selectEntry_of_capture (d := s.dsel) h3 h45 he, hx⟩

/-- A caller operation that is not reserved answers, busy or not (R180 to R182, R230). -/
theorem handle_call_answers {cmd : BitVec 24} (hl : s.Legal)
    (hop : cmd.extractLsb' 16 8 = 0x01 ∨ cmd.extractLsb' 16 8 = 0x02 ∨ cmd.extractLsb' 16 8 = 0x03) :
    ∃ t, handle (.call cmd) s = .next t := by
  obtain ⟨op, x, rfl⟩ : ∃ op x, cmd = cmdWord op x := ⟨_, _, cmdWord_fields cmd⟩
  rw [extractLsb'_cmdWord_op] at hop
  simp only [handle, runSelected_eq_next, decode_packCmd_eq_ok]
  obtain rfl | rfl | rfl := hop
  · cases hb : s.busy with
    | true => exact ⟨_, _, .inl ⟨rfl, rfl⟩, (execStartRej_eq_next (f := x)).mpr ⟨hl, hb, rfl⟩⟩
    | false => exact ⟨_, _, .inl ⟨rfl, rfl⟩, execStart_eq_next.mpr ⟨hl, hb, rfl⟩⟩
  · exact ⟨_, _, .inr (.inl ⟨rfl, rfl⟩), (execReadStatus_eq_next (x := x)).mpr ⟨hl, rfl⟩⟩
  · exact ⟨_, _, .inr (.inr ⟨rfl, rfl⟩), (execReset_eq_next (x := x)).mpr rfl⟩

theorem handle_answers {ev : Event} (hl : s.Legal)
    (hcall : ∀ cmd, ev = .call cmd →
      cmd.extractLsb' 16 8 = 0x01 ∨ cmd.extractLsb' 16 8 = 0x02 ∨ cmd.extractLsb' 16 8 = 0x03) :
    ∃ t, handle ev s = .next t := by
  cases ev with
  | call cmd => exact handle_call_answers hl (hcall cmd rfl)
  | tick | line | evHb | evStop | evCap => exact ⟨_, guarded_pos hl trivial⟩

/-- Settles O15: whichever comes next, an entry or an event, answers. -/
theorem legalStatesStep : Obligations.LegalStatesStep := by
  intro s hp hl hcall
  cases hnext : s.entryNext with
  | true =>
    obtain ⟨hirq, -⟩ : s.irq = true ∧ (s.chained || !goesFirst s.env) = true := by
      simpa [State.entryNext] using hnext
    obtain ⟨i, t, hsel, hx⟩ := entry_answers hl hirq
    exact ⟨_, step_of_entry hp hnext hsel hx⟩
  | false =>
    rw [step_of_not_entryNext hp hnext]
    cases henv : s.env with
    | nil => exact ⟨_, (serveEnvironment_nil henv).trans (handle_tick hl s.rx)⟩
    | cons e es =>
      rw [serveEnvironment_cons henv]
      exact handle_answers (s := s.withEnv es) hl fun cmd hev => hcall hnext e es cmd henv hev

/-! ### A quiet line -/

/-- The stop detector's duration is shorter than the watchdog's (R7). -/
theorem stopT_lt_wdT {p : Params} (hp : p.WellFormed) : p.stopT < p.wdT := by
  obtain ⟨-, -, -, -, -, hwd, -⟩ := hp
  exact hwd

/-- Settles O55: no frame is in progress, so that only the watchdog's match comes, and `ANSWER_VALID` is 0 before its
entry (R43 (6)). -/
theorem quietLineEndsTransfer : Obligations.QuietLineEndsTransfer := by
  intro s hp hl hs hframe hq henv hline hcnt
  have hquiet : QuietReception s := ⟨hp, hl, hs, hq, henv, hline, hcnt⟩
  have hstop : s.stopEn = false := by
    obtain hempty | hdone := hframe <;> simp [State.stopEn, *]
  obtain ⟨-, -, -, -, hvalid, -⟩ := (State.legal_iff_of_receiving hs).mp hl
  exact ⟨_, hquiet.ends hstop (by omega), rfl, rfl, by simp [hvalid], fun hdone => by simp [hdone], rfl⟩

/-- The end-of-frame detector's judgement of a frame: `if BF_ACC >= 2 then BF_DONE <- 1 else CLEAR_BF()` (R145). -/
def State.judgeFrame (s : State) : State := if 2 ≤ s.bfAcc then s.markDone else s.clearBf

theorem exec_eofDetect (hl : s.Legal) (he : s.EvStop) (hf : s.InFrame) :
    exec .eofDetect s = .next s.enterStop.judgeFrame := execEofDetect_eq_next.mpr ⟨hl, ⟨he, hf⟩, rfl⟩

/-- What the judgement of a frame in progress leaves: no frame in progress, and one completed exactly when it had a data
bit. -/
theorem State.judgeFrame_frame (hd : s.bfDone = false) :
    s.judgeFrame.bfDone = decide (2 ≤ s.bfAcc) ∧ (2 ≤ s.bfAcc → s.judgeFrame.bfAcc = s.bfAcc) ∧
      (s.judgeFrame.bfAcc = 0 ∨ s.judgeFrame.bfDone = true) := by
  unfold State.judgeFrame
  split_ifs with h2 <;> simp [h2, hd]

/-- What the judgement leaves as it was. -/
theorem State.judgeFrame_keeps (s : State) :
    s.judgeFrame.params = s.params ∧ s.judgeFrame.state = s.state ∧ s.judgeFrame.err = s.err ∧
      s.judgeFrame.irq = s.irq ∧ s.judgeFrame.cnt = s.cnt ∧ s.judgeFrame.env = s.env ∧
      s.judgeFrame.rx = s.rx ∧ s.judgeFrame.prevRx = s.prevRx := by
  unfold State.judgeFrame
  split_ifs <;> exact ⟨rfl, rfl, rfl, rfl, rfl, rfl, rfl, rfl⟩

/-- A stop match with a frame in progress is judged (R145, R156). -/
theorem step_judgeFrame (hp : s.params.WellFormed) (hl : s.Legal) (he : s.EvStop) (hf : s.InFrame)
    (hfirst : goesFirst s.env = false) :
    step s = .next (s.enterStop.judgeFrame.withChained s.enterStop.judgeFrame.irq) := by
  obtain ⟨h3, h45⟩ := hl.codes
  have hsel := selectEntry_of_stop (d := s.dsel) h3 h45 he
  rw [if_pos (by simpa [State.dsel, State.accNz, State.InFrame] using hf)] at hsel
  have hst : s.irStop = true := he.2
  exact step_of_entry hp (by simp [State.entryNext, State.irq, hst, hfirst]) hsel (exec_eofDetect hl he hf)

namespace QuietReception

/-- The stop match, which comes before the watchdog's (R7, R215). -/
theorem tick_stop (h : QuietReception s) (hf : s.InFrame) (hcnt : s.cnt + 1 = s.params.stopT) :
    s.tick s.rx = (s.atCount (s.cnt + 1)).raiseStop := by
  have hwd := stopT_lt_wdT h.params
  have hhb : (s.atCount (s.cnt + 1)).compareHb = s.atCount (s.cnt + 1) :=
    if_neg fun hmatch => (hcnt.trans_lt hwd).ne (hmatch.2.trans h.mrHb_eq)
  have hen : (s.atCount (s.cnt + 1)).stopEn = true := decide_eq_true hf
  have hst : (s.atCount (s.cnt + 1)).compareStop = (s.atCount (s.cnt + 1)).raiseStop := if_pos ⟨hen, hcnt⟩
  change (s.count.compareHb.compareStop).capture = _
  rw [h.count_eq, hhb, hst, State.capture_of_held (s := (s.atCount (s.cnt + 1)).raiseStop) h.line]

/-- With a frame in progress the stop match is pending when the counter has come to `STOP_T` (R222). -/
theorem reaches_stop (h : QuietReception s) (hf : s.InFrame) (hcnt : s.cnt < s.params.stopT) :
    runSteps (s.params.stopT - s.cnt) s = .next (s.atCount s.params.stopT).raiseStop := by
  have hwd := stopT_lt_wdT h.params
  obtain ⟨m, hm⟩ : ∃ m, s.cnt + m + 1 = s.params.stopT := ⟨s.params.stopT - s.cnt - 1, by omega⟩
  have hcounts := h.counts (n := m) (by omega) fun _ => by omega
  have hlast := h.atCount (n := s.cnt + m) (by omega)
  have hstep := step_of_silence hlast.params hlast.legal hlast.quiet hlast.env
  rw [hlast.tick_stop hf hm] at hstep
  rw [← hm, show s.cnt + m + 1 - s.cnt = m + 1 by omega]
  exact runSteps_succ_of_step hcounts hstep

/-- The entry at the stop match leaves a quiet reception with the frame judged and the counter at 0. -/
theorem judges (h : QuietReception s) (hf : s.InFrame) (hcnt : s.cnt < s.params.stopT) :
    ∃ t, runSteps (s.params.stopT - s.cnt + 1) s = .next t ∧ QuietReception t ∧ t.params = s.params ∧ t.err = s.err ∧
      t.cnt = 0 ∧ t.bfDone = decide (2 ≤ s.bfAcc) ∧ (2 ≤ s.bfAcc → t.bfAcc = s.bfAcc) ∧
      (t.bfAcc = 0 ∨ t.bfDone = true) := by
  have hreach := h.reaches_stop hf hcnt
  set c := (s.atCount s.params.stopT).raiseStop
  obtain ⟨hhb, -, hcap⟩ := State.irq_eq_false.mp h.quiet
  have hlc : c.Legal := h.legal
  have hq : c.enterStop.irq = false := State.irq_eq_false.mpr ⟨hhb, rfl, hcap⟩
  have hjudge := step_judgeFrame (s := c) h.params hlc ⟨hhb, rfl⟩ hf (congrArg goesFirst h.env)
  obtain ⟨hparams, hstate, herr, hirq, hzero, henv, hrx, hprev⟩ := c.enterStop.judgeFrame_keeps
  have hwd : 0 < s.params.wdT := Nat.zero_lt_of_lt h.cnt_lt
  have ⟨_, _, hdone⟩ := hf
  refine ⟨_, runSteps_succ_of_step hreach hjudge, ?_, hparams, herr, hzero,
    State.judgeFrame_frame (s := c.enterStop) hdone⟩
  exact
    { params := (congrArg Params.WellFormed hparams).mpr h.params, legal := stepKeepsLegal _ _ hlc hjudge
      state := hstate.trans h.state, quiet := hirq.trans hq, env := henv.trans h.env
      line := hrx.trans (h.line.trans hprev.symm)
      cnt_lt := hzero.trans_lt (hwd.trans_eq (congrArg Params.wdT hparams).symm) }

end QuietReception

/-- Settles O56: the stop detector's judgement, and the end of the transfer on the line that stays quiet. -/
theorem quietLineCompletesFrame : Obligations.QuietLineCompletesFrame := by
  intro s hp hl hs hacc hdone hq henv hline hcnt
  have hwd := stopT_lt_wdT hp
  have hquiet : QuietReception s := ⟨hp, hl, hs, hq, henv, hline, hcnt.trans hwd⟩
  obtain ⟨t, hrun, ht, hparams, herr, hzero, hjudged, hkept, hframe⟩ :=
    hquiet.judges ⟨hs, hacc, hdone⟩ hcnt
  obtain ⟨u, hend, hidle, hbusy, hvalid, hans, herr'⟩ :=
    quietLineEndsTransfer t ht.params ht.legal ht.state hframe ht.quiet ht.env ht.line ht.cnt_lt
  rw [hzero, hparams, Nat.sub_zero] at hend
  refine ⟨u, (runSteps_add hrun).trans hend, hidle, hbusy, hvalid.trans hjudged, fun h2 => ?_, herr'.trans herr⟩
  rw [hans (by simpa [hjudged] using h2), hkept h2]

/-! ### The value captured at an edge -/

/-- The trace of a line that holds `v` for `n` ticks and changes in the next. -/
theorem ticks_of_edge (v : Level) (n : Nat) :
    ticks (fun k => if k ≤ n then v else !v) 0 (n + 1) =
      List.replicate n { first := false, event := .tick v } ++ [{ first := false, event := .tick (!v) }] := by
  have hheld : (List.range n).map (fun k => (⟨false, .tick (if 0 + k + 1 ≤ n then v else !v)⟩ : Stimulus)) =
      List.replicate n ⟨false, .tick v⟩ := by
    refine List.eq_replicate_iff.mpr ⟨by simp, List.forall_mem_map.mpr fun k hk => ?_⟩
    have hlt : k < n := List.mem_range.mp hk
    rw [if_pos (by omega)]
  rw [ticks, List.range_succ, List.map_append, hheld]
  simp

/-- Reception with nothing pending, `n` ticks after the last entry: the line was at `v` at the last tick, and the events
`es` are left. The parameters are those of `s₀`. -/
structure Counting (s₀ : State) (v : Level) (n : Nat) (es : List Stimulus) (s : State) : Prop where
  params : s.params = s₀.params
  legal : s.Legal
  state : s.state = stReceiving
  quiet : s.irq = false
  prevRx : s.prevRx = v
  cnt : s.cnt = n
  env : s.env = es

namespace Counting

variable {s₀ : State}

theorem withEnv (h : Counting s₀ v n es s) (fs : List Stimulus) : Counting s₀ v n fs (s.withEnv fs) :=
  ⟨h.params, h.legal, h.state, h.quiet, h.prevRx, h.cnt, rfl⟩

variable (hp : s₀.params.WellFormed)
include hp

theorem step_tick {w : Level} (h : Counting s₀ v n ({ first := false, event := .tick w } :: es) s) :
    step s = .next ((s.withEnv es).tick w) :=
  step_of_tick (by rw [h.params]; exact hp) h.legal (entryNext_of_quiet h.quiet) h.env

/-- Before the stop detector's duration a tick counts and raises no match (R213 to R215). -/
theorem tick_timer (h : Counting s₀ v n es s) (hn : n + 1 < s₀.params.stopT) (w : Level) :
    (s.tick w).cnt = n + 1 ∧ (s.tick w).irHb = false ∧ (s.tick w).irStop = false := by
  obtain ⟨hhb, hst, -⟩ := State.irq_eq_false.mp h.quiet
  have hwd := stopT_lt_wdT hp
  obtain ⟨-, -, -, -, -, -, hfit, -⟩ := hp
  have hcnt : (s.tick w).cnt = n + 1 := by
    rw [State.tick_cnt_eq, if_neg (by rw [h.state]; decide), h.cnt, h.params, Nat.mod_eq_of_lt (by omega)]
  refine ⟨hcnt, Bool.eq_false_iff.mpr fun hmatch => ?_, Bool.eq_false_iff.mpr fun hmatch => ?_⟩
  · rw [State.tick_irHb_iff h.legal hhb, h.state, hcnt, h.params] at hmatch
    obtain ⟨hsend, -⟩ | ⟨-, heq⟩ := hmatch
    · exact absurd hsend (by decide)
    · omega
  · rw [State.tick_irStop_iff hst, hcnt, h.params] at hmatch
    obtain ⟨-, -, -, heq⟩ := hmatch
    omega

/-- A tick on a line that holds its level only counts. -/
theorem tick (h : Counting s₀ v n es s) (hn : n + 1 < s₀.params.stopT) : Counting s₀ v (n + 1) es (s.tick v) := by
  obtain ⟨hcnt, hhb, hst⟩ := h.tick_timer hp hn v
  obtain ⟨-, -, hcap⟩ := State.irq_eq_false.mp h.quiet
  have hcap' : (s.tick v).irCap = false := by simp [State.tick_irCap, hcap, h.prevRx]
  exact
    { params := by simpa using h.params, legal := h.legal.tick v, state := by simpa using h.state
      quiet := State.irq_eq_false.mpr ⟨hhb, hst, hcap'⟩, prevRx := by simp, cnt := hcnt, env := by simpa using h.env }

theorem ticks (h : Counting s₀ v n (List.replicate m { first := false, event := .tick v } ++ es) s)
    (hn : n + m < s₀.params.stopT) : ∃ t, runSteps m s = .next t ∧ Counting s₀ v (n + m) es t := by
  induction m generalizing s n with
  | zero => exact ⟨s, rfl, h⟩
  | succ m ih =>
    have htick := (h.withEnv (List.replicate m ⟨false, .tick v⟩ ++ es)).tick hp (by omega)
    obtain ⟨t, hrun, ht⟩ := ih htick (by omega)
    rw [Nat.add_assoc, Nat.add_comm 1] at ht
    exact ⟨t, (runSteps_of_step (h.step_tick hp)).trans hrun, ht⟩

/-- The tick of an edge captures the count (R216). -/
theorem edge (h : Counting s₀ v n ({ first := false, event := .tick (!v) } :: es) s) (hn : n + 1 < s₀.params.stopT) :
    ∃ t, step s = .next t ∧ t.irCap = true ∧ t.capVal = n + 1 ∧ t.rx = !v ∧ t.irHb = false ∧ t.irStop = false := by
  have hu := h.withEnv es
  obtain ⟨hcnt, hhb, hst⟩ := hu.tick_timer hp hn (!v)
  obtain ⟨-, -, hcap⟩ := State.irq_eq_false.mp hu.quiet
  have hedge : ((s.withEnv es).tick (!v)).irCap = true :=
    (State.tick_irCap_iff hcap _).mpr ⟨by rw [hu.prevRx]; simp, by rw [hu.state]; decide⟩
  refine ⟨_, h.step_tick hp, hedge, ?_, State.tick_rx _ _, hhb, hst⟩
  rw [State.tick_capVal_eq hcap, if_pos hedge, hcnt]

end Counting

/-- Settles O57: `n` ticks that only count, and the tick of the edge. -/
theorem capturedValueIsElapsedTicks : Obligations.CapturedValueIsElapsedTicks := by
  intro s n v hp hl hs hq hc hprev hn henv
  have hstart : Counting s v 0 (List.replicate n ⟨false, .tick v⟩ ++ [⟨false, .tick (!v)⟩]) s :=
    ⟨rfl, hl, hs, hq, hprev, hc, henv.trans (ticks_of_edge v n)⟩
  obtain ⟨u, hrun, hu⟩ := hstart.ticks hp (by omega)
  rw [Nat.zero_add] at hu
  obtain ⟨t, hstep, hedge⟩ := hu.edge hp hn
  exact ⟨t, runSteps_succ_of_step hrun hstep, hedge⟩

end Sys2Proof.Machine

/-! ## Reset and the order of simultaneous actions

What 70_reset_and_hazards asks of RESET and of a caller operation beside a due entry: the state after RESET meets every
invariant (R232), a RESET leaves the same state on either side of an entry (R238 (3)), and a START beside the end of the
transfer is rejected before the entry and accepted after it (R238 (1)). -/

namespace Sys2Proof.Machine

variable {s t : State} {i : Instr} {es : List Stimulus}

/-! ### The state after RESET -/

/-- Settles O18: a RESET of the reset state leaves it as it is, so what every RESET establishes holds of it. -/
theorem resetMeetsInvariants : Obligations.ResetMeetsInvariants := by
  intro p _
  have hreset : (State.resetWith p).resetAll = State.resetWith p := rfl
  exact ⟨hreset ▸ State.resetAll_legal _, hreset ▸ .resetAll _, .of_empty rfl, hreset ▸ .resetAll _, .of_idle rfl,
    .of_unchained rfl, rfl, by decide⟩

/-- The step that takes a RESET off the trace, before a due entry or with nothing pending: the parameters, the line's
level and the rest of the trace stay (R230, log 6). -/
theorem step_reset {x : BitVec 16} {first : Bool} (hp : s.params.WellFormed)
    (henv : s.env = { first := first, event := .call (cmdWord 0x03 x) } :: es)
    (hturn : s.irq = false ∨ (s.chained = false ∧ first = true)) :
    step s = .next { State.resetWith s.params with rx := s.rx, env := es } := by
  have hsel : decode (.cmd25 (packCmd s.busy (cmdWord 0x03 x))) = .ok (.reset x) :=
    decode_packCmd_eq_ok.mpr (.inr (.inr ⟨rfl, rfl⟩))
  rw [stepServesCaller s _ first es (.reset x) hp henv hturn hsel]
  exact (execReset_eq_next (x := x)).mpr rfl

/-! ### What an entry leaves pending -/

/-- How many of the three flags are pending. -/
def State.pendingCount (s : State) : Nat := s.irHb.toNat + s.irStop.toNat + s.irCap.toNat

theorem State.irq_eq_false_iff_pendingCount : s.irq = false ↔ s.pendingCount = 0 := by
  simp [State.irq_eq_false, State.pendingCount, and_assoc]

/-- An entry serves one flag and raises none (R151, R152), and it writes neither the line's level nor the trace. -/
theorem exec_entry_serves (hi : isEntry i = true) (h : exec i s = .next t) :
    t.pendingCount + 1 = s.pendingCount ∧ t.rx = s.rx ∧ t.env = s.env := by
  have hhb (he : s.EvHb) : s.enterHb.pendingCount + 1 = s.pendingCount := by
    simp [State.pendingCount, he, Nat.add_comm 1, Nat.add_right_comm]
  have hstop (he : s.EvStop) : s.enterStop.pendingCount + 1 = s.pendingCount := by
    simp [State.pendingCount, he, Nat.add_comm]
  have hcap (he : s.EvCap) : s.enterCap.pendingCount + 1 = s.pendingCount := by simp [State.pendingCount, he]
  cases i with
  | encStart2 | encData1 | encData2 | encStop | encSettle | encTurn | encEnd | hbIdle =>
    simp only [exec, execEncStart2_eq_next, execEncData1_eq_next, execEncData2_eq_next, execEncStop_eq_next,
      execEncSettle_eq_next, execEncTurn_eq_next, execEncEnd_eq_next, execHbIdle_eq_next] at h
    obtain ⟨-, ⟨he, -⟩, rfl⟩ := h
    exact ⟨hhb he, rfl, rfl⟩
  | stopIgnore =>
    obtain ⟨-, ⟨he, -⟩, rfl⟩ := execStopIgnore_eq_next.mp h
    exact ⟨hstop he, rfl, rfl⟩
  | eofDetect =>
    obtain ⟨-, ⟨he, -⟩, rfl⟩ := execEofDetect_eq_next.mp h
    split <;> exact ⟨hstop he, rfl, rfl⟩
  | capFall | capSeed | capOrder | capIgnore =>
    simp only [exec, execCapFall_eq_next, execCapSeed_eq_next, execCapOrder_eq_next, execCapIgnore_eq_next] at h
    obtain ⟨-, ⟨he, -⟩, rfl⟩ := h
    exact ⟨hcap he, rfl, rfl⟩
  | capDecode =>
    obtain ⟨-, ⟨he, -⟩, hx⟩ := execCapDecode_eq_next.mp h
    obtain ⟨-, -, hrow⟩ := decodeStep_rowEffect hx
    cases hrow <;> exact ⟨hcap he, rfl, rfl⟩
  | start | startRej | readStatus | reset | decBadHigh | decBadLow | dec0SS | dec0SL | dec0LS | dec0LL | dec1SS
  | dec1SL | dec1LS | dec1LL | classify => simp [isEntry] at hi

/-- With one flag pending and no event before it, a step of a legal state is its entry, after which none is pending. -/
theorem step_serves_only_flag (hp : s.params.WellFormed) (hl : s.Legal) (hone : s.pendingCount = 1)
    (hfirst : goesFirst s.env = false) :
    ∃ t, step s = .next t ∧ t.irq = false ∧ t.params = s.params ∧ t.rx = s.rx ∧ t.env = s.env := by
  have hirq : s.irq = true := by
    by_contra hq
    simp [State.irq_eq_false_iff_pendingCount.mp (by simpa using hq)] at hone
  obtain ⟨i, u, hsel, hx⟩ := entry_answers hl hirq
  obtain ⟨hcount, hrx, henv⟩ := exec_entry_serves (isEntry_of_selectEntry hsel) hx
  have hquiet : u.irq = false := State.irq_eq_false_iff_pendingCount.mpr (by omega)
  exact ⟨_, step_of_entry hp (by simp [State.entryNext, hirq, hfirst]) hsel hx, hquiet, (exec_effect hx).params, hrx,
    henv⟩

/-! ### A RESET beside one pending flag -/

/-- The entry ordered before the RESET writes none of what RESET keeps. -/
theorem runSteps_entry_reset {x : BitVec 16} (hp : s.params.WellFormed) (hl : s.Legal) (hone : s.pendingCount = 1)
    (henv : s.env = { first := false, event := .call (cmdWord 0x03 x) } :: es) :
    runSteps 2 s = .next { State.resetWith s.params with rx := s.rx, env := es } := by
  obtain ⟨t, hentry, hquiet, hparams, hrx, hkeep⟩ := step_serves_only_flag hp hl hone (by rw [henv]; rfl)
  have hreset := step_reset (by rw [hparams]; exact hp) (hkeep.trans henv) (.inl hquiet)
  rw [hparams, hrx] at hreset
  exact runSteps_two hentry hreset

/-- Settles O16: with the RESET ordered first its step is the whole run. -/
theorem resetOrderDoesNotMatter : Obligations.ResetOrderDoesNotMatter := fun s _ _ hp hl hch hone =>
  ⟨(runSteps_one _).trans (step_reset (s := { s with env := _ }) hp rfl (.inr ⟨hch, rfl⟩)),
    runSteps_entry_reset (s := { s with env := _ }) hp hl hone rfl⟩

/-! ### A START beside the end of the transfer -/

/-- Before the watchdog's entry the core is still busy, so the START is rejected and the transfer ends as it was (R107,
R181). -/
theorem runSteps_startRej_encEnd {f : BitVec 16} (hp : s.params.WellFormed) (hl : s.Legal) (hs : s.state = stReceiving)
    (hhb : s.irHb = true) (hch : s.chained = false)
    (henv : s.env = [{ first := true, event := .call (cmdWord 0x01 f) }]) :
    ∃ t, runSteps 2 s = .next t ∧ t.result = .start false ∧ t.state = stIdle ∧ t.fwd = s.fwd := by
  obtain ⟨hbusy, -⟩ := (State.legal_iff_of_receiving hs).mp hl
  have hsel : decode (.cmd25 (packCmd s.busy (cmdWord 0x01 f))) = .ok (.startRej f) :=
    decode_packCmd_eq_ok.mpr (.inl ⟨rfl, by simp [hbusy]⟩)
  have hreject : step s = .next ((s.withEnv []).answerWith (.start false)) := by
    rw [stepServesCaller s _ true [] (.startRej f) hp henv (.inr ⟨hch, rfl⟩) hsel]
    exact (execStartRej_eq_next (f := f)).mpr ⟨hl, hbusy, rfl⟩
  have hend := step_encEnd (s := (s.withEnv []).answerWith (.start false)) hp hl hs hhb rfl
  exact ⟨_, runSteps_two hreject hend, rfl, rfl, rfl⟩

/-- The watchdog's entry leaves the core idle with nothing pending, so the START after it is accepted (R107, R180). -/
theorem runSteps_encEnd_start {f : BitVec 16} (hp : s.params.WellFormed) (hl : s.Legal) (hs : s.state = stReceiving)
    (hhb : s.irHb = true) (hstop : s.irStop = false) (hcap : s.irCap = false)
    (henv : s.env = [{ first := false, event := .call (cmdWord 0x01 f) }]) :
    ∃ t, runSteps 2 s = .next t ∧ t.result = .start true ∧ t.state = stSending ∧ t.fwd = f := by
  have hend := step_encEnd hp hl hs hhb (by rw [henv]; rfl)
  have hquiet : s.enterHb.endTransfer.irq = false := State.irq_eq_false.mpr ⟨rfl, hstop, hcap⟩
  have hlegal : s.enterHb.endTransfer.Legal := State.Legal.endTransfer (s := s.enterHb) hl
  have hstart := step_start (s := s.enterHb.endTransfer.withChained s.enterHb.endTransfer.irq) hp hlegal rfl hquiet henv
  exact ⟨_, runSteps_two hend hstart, rfl, rfl, rfl⟩

/-- Settles O17: the two orders of the START and the watchdog's entry. -/
theorem startBesideEndOfTransfer : Obligations.StartBesideEndOfTransfer := fun s _ hp hl hs hhb hstop hcap hch =>
  ⟨runSteps_startRej_encEnd (s := { s with env := _ }) hp hl hs hhb hch rfl,
    runSteps_encEnd_start (s := { s with env := _ }) hp hl hs hhb hstop hcap rfl⟩

end Sys2Proof.Machine
